-- ==== Sys2Proof/Word.lean ====
section
/-! DEFINITION. The widths of the machine (00_scope.md R6, R9): bytes, 16-bit words, 64-bit framebuffer rows, and the
4-bit indices of registers and keys. All values are unsigned. -/

namespace Sys2Proof

/-- An 8-bit value: a register, a timer, a memory byte, an immediate NN. -/
abbrev Byte := BitVec 8

/-- A 16-bit value: the program counter, the address register, a stack entry, an instruction word. -/
abbrev Word := BitVec 16

/-- A framebuffer row: bit 63 is the leftmost pixel (10_state.md R29). -/
abbrev Row := BitVec 64

/-- The index of a general register V0..VF (10_state.md R20). -/
abbrev Reg := Fin 16

/-- The index of a key, 0..15: key k carries the hexadecimal digit k (60_exceptions.md R179). -/
abbrev Key := Fin 16

/-- VF, register 15, the only flag (10_state.md R22). -/
abbrev vf : Reg := 15

end Sys2Proof
end

