-- ==== Sys2Proof/Syntax.lean ====
section
/-! DEFINITION. The instruction set: one constructor per row of spec/opcode_table.json, in the table's order
(30_encoding.md R75). Operands carry their field's width (R71), so no ill-formed instruction can be written down. -/

namespace Sys2Proof

/-- The 34 instructions of 30_encoding.md R75. `x` and `y` are the register fields X and Y, `n`, `nn`, `nnn` the
4-, 8- and 12-bit immediates. -/
inductive Instr where
  /-- CLS, 00E0 (R150). -/
  | cls
  /-- RET, 00EE (R100). -/
  | ret
  /-- JP NNN, 1NNN (R101). -/
  | jp (nnn : BitVec 12)
  /-- CALL NNN, 2NNN (R102). -/
  | call (nnn : BitVec 12)
  /-- SE Vx, NN, 3XNN (R103). -/
  | seImm (x : Reg) (nn : Byte)
  /-- SNE Vx, NN, 4XNN (R104). -/
  | sneImm (x : Reg) (nn : Byte)
  /-- SE Vx, Vy, 5XY0 (R105). -/
  | seReg (x y : Reg)
  /-- SNE Vx, Vy, 9XY0 (R106). -/
  | sneReg (x y : Reg)
  /-- LD Vx, NN, 6XNN (R120). -/
  | ldImm (x : Reg) (nn : Byte)
  /-- ADD Vx, NN, 7XNN (R121). -/
  | addImm (x : Reg) (nn : Byte)
  /-- LD Vx, Vy, 8XY0 (R122). -/
  | ldReg (x y : Reg)
  /-- OR Vx, Vy, 8XY1 (R123). -/
  | orReg (x y : Reg)
  /-- AND Vx, Vy, 8XY2 (R124). -/
  | andReg (x y : Reg)
  /-- XOR Vx, Vy, 8XY3 (R125). -/
  | xorReg (x y : Reg)
  /-- ADD Vx, Vy, 8XY4 (R126). -/
  | addReg (x y : Reg)
  /-- SUB Vx, Vy, 8XY5 (R127). -/
  | subReg (x y : Reg)
  /-- SUBN Vx, Vy, 8XY7 (R129). -/
  | subnReg (x y : Reg)
  /-- SHL Vx, Vy, 8XYE (R130). -/
  | shlReg (x y : Reg)
  /-- SHR Vx, Vy, 8XY6 (R128). -/
  | shrReg (x y : Reg)
  /-- LD I, NNN, ANNN (R140). -/
  | ldI (nnn : BitVec 12)
  /-- JP V0, NNN, BNNN (R107). -/
  | jpV0 (nnn : BitVec 12)
  /-- RND Vx, NN, CXNN (R131). -/
  | rnd (x : Reg) (nn : Byte)
  /-- DRW Vx, Vy, N, DXYN (R151). -/
  | drw (x y : Reg) (n : BitVec 4)
  /-- SKP Vx, EX9E (R164). -/
  | skp (x : Reg)
  /-- SKNP Vx, EXA1 (R165). -/
  | sknp (x : Reg)
  /-- LD Vx, DT, FX07 (R160). -/
  | ldVxDt (x : Reg)
  /-- LD DT, Vx, FX15 (R161). -/
  | ldDtVx (x : Reg)
  /-- LD ST, Vx, FX18 (R162). -/
  | ldStVx (x : Reg)
  /-- LD Vx, K, FX0A (R163). -/
  | ldVxK (x : Reg)
  /-- ADD I, Vx, FX1E (R141). -/
  | addI (x : Reg)
  /-- LD F, Vx, FX29 (R142). -/
  | ldF (x : Reg)
  /-- LD B, Vx, FX33 (R143). -/
  | ldB (x : Reg)
  /-- LD [I], Vx, FX55: register dump (R144). -/
  | dump (x : Reg)
  /-- LD Vx, [I], FX65: register load (R145). -/
  | load (x : Reg)
  deriving DecidableEq, Repr

end Sys2Proof
end

