-- ==== Sys2Proof/WellFormed.lean ====
section
/-! DEFINITION. What the spec calls well formed before it reaches the core: an instruction word that some row of the opcode
map owns (30_encoding.md R76, R77), and a program image that fits (70_reset_and_hazards.md R194). An `Instr` itself is
well formed by its type. -/

namespace Sys2Proof

/-- The six classes of unmatched words, as 30_encoding.md R77 lists them, on the four nibbles of the word. -/
def unmatchedNibbles (n3 n2 n1 n0 : Nat) : Bool :=
  let low := 16 * n1 + n0
  (n3 == 0x0 && !([0x0E0, 0x0EE].contains (256 * n2 + low)))
    || (n3 == 0x5 && n0 != 0)
    || (n3 == 0x8 && [0x8, 0x9, 0xA, 0xB, 0xC, 0xD, 0xF].contains n0)
    || (n3 == 0x9 && n0 != 0)
    || (n3 == 0xE && !([0x9E, 0xA1].contains low))
    || (n3 == 0xF && !([0x07, 0x0A, 0x15, 0x18, 0x1E, 0x29, 0x33, 0x55, 0x65].contains low))

/-- The word is in one of the six classes of R77. The nibbles are numbered as 00_scope.md R9 numbers them. -/
def unmatchedWord (w : Word) : Bool :=
  unmatchedNibbles (w.extractLsb' 12 4).toNat (w.extractLsb' 8 4).toNat (w.extractLsb' 4 4).toNat
    (w.extractLsb' 0 4).toNat

/-- The words the opcode map gives a meaning: the 43954 that R77 does not list. -/
def WellFormedWord (w : Word) : Bool := !unmatchedWord w

/-- The number of bytes a program may have: PROG_MAX of 00_scope.md R6. -/
def programMax : Nat := 3584

/-- A program image `LoadProgram` is defined for (70_reset_and_hazards.md R194). -/
def WellFormedImage (bytes : List Byte) : Bool := decide (bytes.length ≤ programMax)

end Sys2Proof
end

