-- ==== Sys2Proof/Decode.lean ====
section
/-! DEFINITION. The decoder and the encoder (30_encoding.md). The decoder is a pure function of the 16-bit word (R70); it
refuses a word no row of R75 matches by name. What the machine does with such a word is `Step`'s affair (R95). -/

namespace Sys2Proof

/-- Why no instruction was read. -/
inductive DecodeError where
  /-- No row of R75 matches the word (R76). -/
  | unmatched (w : Word)
  /-- Fewer than two bytes were given: an instruction is always two bytes (R70). -/
  | truncated
  deriving DecidableEq, Repr

/-- A field at its place in a 16-bit word: `field << lo`. -/
def at16 {n : Nat} (lo : Nat) (f : BitVec n) : Word := f.setWidth 16 <<< lo

/-- Instruction fetch is big-endian: the first byte supplies bits 15..8 (20_memory.md R54). -/
def wordOfBytes (hi lo : Byte) : Word := at16 8 hi ||| at16 0 lo

/-- The byte at the lower address, bits 15..8 (R81). -/
def highByte (w : Word) : Byte := w.extractLsb' 8 8

/-- The byte at the higher address, bits 7..0 (R81). -/
def lowByte (w : Word) : Byte := w.extractLsb' 0 8

/-- A 4-bit register field as an index of V: all 16 values are valid (R73). -/
def regOfField (f : BitVec 4) : Reg := ⟨f.toNat, f.isLt⟩

/-- The field that encodes a register. -/
def fieldOfReg (r : Reg) : BitVec 4 := BitVec.ofNat 4 r.val

/-- OP, bits 15..12 (R71). -/
def fieldOp (w : Word) : BitVec 4 := w.extractLsb' 12 4

/-- X, bits 11..8 (R71). -/
def fieldX (w : Word) : Reg := regOfField (w.extractLsb' 8 4)

/-- Y, bits 7..4 (R71). -/
def fieldY (w : Word) : Reg := regOfField (w.extractLsb' 4 4)

/-- N, bits 3..0 (R71). -/
def fieldN (w : Word) : BitVec 4 := w.extractLsb' 0 4

/-- NN, bits 7..0 (R71). -/
def fieldNN (w : Word) : Byte := w.extractLsb' 0 8

/-- NNN, bits 11..0 (R71). -/
def fieldNNN (w : Word) : BitVec 12 := w.extractLsb' 0 12

/-- Top nibble 0: the two instructions matched by their full value (R74, R75 rows 1 and 2). -/
def decodeExact (w : Word) : Option Instr :=
  if w = 0x00E0#16 then some .cls
  else if w = 0x00EE#16 then some .ret
  else none

/-- The minor opcode of 8XY? (R75 rows 11 to 19). -/
def decodeAlu (n : BitVec 4) (x y : Reg) : Option Instr :=
  if n = 0x0#4 then some (.ldReg x y)
  else if n = 0x1#4 then some (.orReg x y)
  else if n = 0x2#4 then some (.andReg x y)
  else if n = 0x3#4 then some (.xorReg x y)
  else if n = 0x4#4 then some (.addReg x y)
  else if n = 0x5#4 then some (.subReg x y)
  else if n = 0x6#4 then some (.shrReg x y)
  else if n = 0x7#4 then some (.subnReg x y)
  else if n = 0xE#4 then some (.shlReg x y)
  else none

/-- The minor opcode of EX?? (R75 rows 24, 25). -/
def decodeKey (nn : Byte) (x : Reg) : Option Instr :=
  if nn = 0x9E#8 then some (.skp x)
  else if nn = 0xA1#8 then some (.sknp x)
  else none

/-- The minor opcode of FX?? (R75 rows 26 to 34). -/
def decodeMisc (nn : Byte) (x : Reg) : Option Instr :=
  if nn = 0x07#8 then some (.ldVxDt x)
  else if nn = 0x0A#8 then some (.ldVxK x)
  else if nn = 0x15#8 then some (.ldDtVx x)
  else if nn = 0x18#8 then some (.ldStVx x)
  else if nn = 0x1E#8 then some (.addI x)
  else if nn = 0x29#8 then some (.ldF x)
  else if nn = 0x33#8 then some (.ldB x)
  else if nn = 0x55#8 then some (.dump x)
  else if nn = 0x65#8 then some (.load x)
  else none

/-- The row of R75 that matches the word, with its operands; none for the words of R77. -/
def decodeRow (w : Word) : Option Instr :=
  let x := fieldX w
  let y := fieldY w
  let n := fieldN w
  let nn := fieldNN w
  let nnn := fieldNNN w
  let op := fieldOp w
  if op = 0x0#4 then decodeExact w
  else if op = 0x1#4 then some (.jp nnn)
  else if op = 0x2#4 then some (.call nnn)
  else if op = 0x3#4 then some (.seImm x nn)
  else if op = 0x4#4 then some (.sneImm x nn)
  else if op = 0x5#4 then (if n = 0x0#4 then some (.seReg x y) else none)
  else if op = 0x6#4 then some (.ldImm x nn)
  else if op = 0x7#4 then some (.addImm x nn)
  else if op = 0x8#4 then decodeAlu n x y
  else if op = 0x9#4 then (if n = 0x0#4 then some (.sneReg x y) else none)
  else if op = 0xA#4 then some (.ldI nnn)
  else if op = 0xB#4 then some (.jpV0 nnn)
  else if op = 0xC#4 then some (.rnd x nn)
  else if op = 0xD#4 then some (.drw x y n)
  else if op = 0xE#4 then decodeKey nn x
  else decodeMisc nn x

/-- The instruction the word encodes, or a refusal that names the word (R74, R76). -/
def decode (w : Word) : Except DecodeError Instr :=
  match decodeRow w with
  | some i => .ok i
  | none => .error (.unmatched w)

/-- One instruction from the front of a byte stream, with the rest of the stream (R54, R70). -/
def decodeBytes : List Byte → Except DecodeError (Instr × List Byte)
  | hi :: lo :: rest =>
    match decode (wordOfBytes hi lo) with
    | .ok i => .ok (i, rest)
    | .error e => .error e
  | _ => .error .truncated

/-- Format A: `match | NNN` (R72, R81); `op` is the top nibble of the match. -/
def encodeA (op : BitVec 4) (nnn : BitVec 12) : Word := at16 12 op ||| at16 0 nnn

/-- Format XI: `match | X << 8 | NN`; format XF has its minor opcode in the place of NN (R72, R81). -/
def encodeXI (op : BitVec 4) (x : Reg) (nn : Byte) : Word := at16 12 op ||| at16 8 (fieldOfReg x) ||| at16 0 nn

/-- Format XYN: `match | X << 8 | Y << 4 | N`; format XY has its minor opcode in the place of N (R72, R81). -/
def encodeXYN (op : BitVec 4) (x y : Reg) (n : BitVec 4) : Word :=
  at16 12 op ||| at16 8 (fieldOfReg x) ||| at16 4 (fieldOfReg y) ||| at16 0 n

/-- The word of an instruction (R81), written from the pattern column of R75. -/
def encode : Instr → Word
  | .cls => 0x00E0#16
  | .ret => 0x00EE#16
  | .jp nnn => encodeA 0x1#4 nnn
  | .call nnn => encodeA 0x2#4 nnn
  | .seImm x nn => encodeXI 0x3#4 x nn
  | .sneImm x nn => encodeXI 0x4#4 x nn
  | .seReg x y => encodeXYN 0x5#4 x y 0x0#4
  | .sneReg x y => encodeXYN 0x9#4 x y 0x0#4
  | .ldImm x nn => encodeXI 0x6#4 x nn
  | .addImm x nn => encodeXI 0x7#4 x nn
  | .ldReg x y => encodeXYN 0x8#4 x y 0x0#4
  | .orReg x y => encodeXYN 0x8#4 x y 0x1#4
  | .andReg x y => encodeXYN 0x8#4 x y 0x2#4
  | .xorReg x y => encodeXYN 0x8#4 x y 0x3#4
  | .addReg x y => encodeXYN 0x8#4 x y 0x4#4
  | .subReg x y => encodeXYN 0x8#4 x y 0x5#4
  | .subnReg x y => encodeXYN 0x8#4 x y 0x7#4
  | .shlReg x y => encodeXYN 0x8#4 x y 0xE#4
  | .shrReg x y => encodeXYN 0x8#4 x y 0x6#4
  | .ldI nnn => encodeA 0xA#4 nnn
  | .jpV0 nnn => encodeA 0xB#4 nnn
  | .rnd x nn => encodeXI 0xC#4 x nn
  | .drw x y n => encodeXYN 0xD#4 x y n
  | .skp x => encodeXI 0xE#4 x 0x9E#8
  | .sknp x => encodeXI 0xE#4 x 0xA1#8
  | .ldVxDt x => encodeXI 0xF#4 x 0x07#8
  | .ldDtVx x => encodeXI 0xF#4 x 0x15#8
  | .ldStVx x => encodeXI 0xF#4 x 0x18#8
  | .ldVxK x => encodeXI 0xF#4 x 0x0A#8
  | .addI x => encodeXI 0xF#4 x 0x1E#8
  | .ldF x => encodeXI 0xF#4 x 0x29#8
  | .ldB x => encodeXI 0xF#4 x 0x33#8
  | .dump x => encodeXI 0xF#4 x 0x55#8
  | .load x => encodeXI 0xF#4 x 0x65#8

/-- The two bytes of an instruction in memory order (R81). -/
def encodeBytes (i : Instr) : List Byte := [highByte (encode i), lowByte (encode i)]

/-- A row's word as the host numbers it: one 16-bit word, the bits above `nbits` zero. -/
def tableWord (nbits w : Nat) : Word := BitVec.ofNat 16 (w % 2 ^ nbits)

/-- The host's question of an opcode-table row: the word laid out as two bytes, high byte first, and decoded. -/
def decodeTableWord (nbits w : Nat) : Option Instr :=
  match decodeBytes [highByte (tableWord nbits w), lowByte (tableWord nbits w)] with
  | .ok (i, _) => some i
  | .error _ => none

end Sys2Proof
end

