-- ==== Sys2Proof/Config.lean ====
section
/-! DEFINITION. The open parameters of 00_scope.md R7: the type of each, the record that holds one choice of all of them,
and the free byte of RND. Which choice the machine is built with stands in Machine/Params.lean. -/

namespace Sys2Proof

/-- STACK_POLICY (R7, 92_eei_decisions.md D5): CALL with a full stack, RET with an empty one. DESIGN CHOICE, log 5. -/
inductive StackPolicy where
  /-- The default: a stack fault. It errs toward unprovable (D5). -/
  | fault
  /-- The slot index wraps. An assumption that errs toward proving (41_control_flow.md R100, R102, D5): DESIGN CHOICE,
  unsafe, logs 5 and 22; the machine is not built with it. -/
  | wrap
  deriving DecidableEq, Repr

/-- OOB_POLICY (R7, D7): any memory access at an address above 4095. DESIGN CHOICE, log 6. -/
inductive OobPolicy where
  /-- The default: a fetch or data fault. It errs toward unprovable (D7). -/
  | fault
  /-- Every address is reduced modulo 4096. An assumption that errs toward proving, which 20_memory.md R53 asks to be marked:
  DESIGN CHOICE, unsafe, logs 6 and 22; the machine is not built with it. -/
  | wrap4096
  deriving DecidableEq, Repr

/-- KEY_INDEX_POLICY (R7, D12): SKP and SKNP with a register value above 15. DESIGN CHOICE, log 7. -/
inductive KeyIndexPolicy where
  /-- The default: a key index fault. It errs toward unprovable (D12). -/
  | fault
  /-- The low four bits name the key. An assumption that errs toward proving (45_timers_keypad.md R166): DESIGN CHOICE,
  unsafe, logs 7 and 22; the machine is not built with it. -/
  | lowNibble
  deriving DecidableEq, Repr

/-- VF_ORDER (R7, D9): which write wins when the destination of a flag-writing ALU instruction is VF. A wrong
value errs both ways (D9): DESIGN CHOICE, unsafe, log 8. -/
inductive VfOrder where
  /-- The default: the flag remains. -/
  | flagLast
  /-- The result remains. Unsafe, logs 8 and 22; the machine is not built with it. -/
  | resultLast
  deriving DecidableEq, Repr

/-- DRAW_X_GE_64 (R7, D11): DRW with a horizontal origin of 64 or more. A wrong value errs both ways (D11): DESIGN CHOICE,
unsafe, log 9. -/
inductive DrawXPolicy where
  /-- The default: every column is shifted out. -/
  | clipAll
  /-- The origin is reduced modulo 64. Unsafe, logs 9 and 22; the machine is not built with it. -/
  | mod64
  deriving DecidableEq, Repr

/-- FONT: sixteen glyphs of five bytes (R7, 20_memory.md R51). -/
abbrev Font := Vector (Vector Byte 5) 16

/-- One value for every open parameter of 00_scope.md R7 but RAND. Every definition that depends on one takes it as an
argument; the names the host fixes (`exec`, `step`, ...) are those definitions at `Machine.config`. -/
structure Config where
  /-- FONT: sixteen glyphs of five bytes, the digit's glyph top row first (20_memory.md R51). -/
  font : Font
  stackPolicy : StackPolicy
  oobPolicy : OobPolicy
  keyIndexPolicy : KeyIndexPolicy
  vfOrder : VfOrder
  drawXPolicy : DrawXPolicy
  /-- STEP_HZ, TIMER_HZ and DISPLAY_HZ: rates of the host; no rule depends on them (70_reset_and_hazards.md R203, D30). -/
  stepHz : Nat
  timerHz : Nat
  displayHz : Nat
  deriving DecidableEq, Repr

/-- RAND (00_scope.md R7, 42_alu.md R131): the byte the n-th execution of RND draws. It has no body: nothing can be
proved of its value, so a statement about RND holds for every value of every draw. Log 4, safe. -/
opaque Config.randomByte : Nat → Byte

end Sys2Proof
end

