-- ==== Sys2Proof/Machine/Params.lean ====
section
/-! DEFINITION. The machine's choice of every open parameter: the spec's defaults (00_scope.md R7). Every definition that depends
on a parameter takes it as an argument (`...With`, from `Memory.readWith` to `stepWith` and `performWith`), so the machine of any other
choice is defined too; its alternatives are unsafe assumptions (log 22). -/

namespace Sys2Proof.Machine

/-- The default FONT of 20_memory.md R51, which the spec takes from general knowledge (D14). PRESUMED, log 3, unsafe. -/
def defaultFont : Font :=
  #v[#v[0xF0, 0x90, 0x90, 0x90, 0xF0], #v[0x20, 0x60, 0x20, 0x20, 0x70],
     #v[0xF0, 0x10, 0xF0, 0x80, 0xF0], #v[0xF0, 0x10, 0xF0, 0x10, 0xF0],
     #v[0x90, 0x90, 0xF0, 0x10, 0x10], #v[0xF0, 0x80, 0xF0, 0x10, 0xF0],
     #v[0xF0, 0x80, 0xF0, 0x90, 0xF0], #v[0xF0, 0x10, 0x20, 0x40, 0x40],
     #v[0xF0, 0x90, 0xF0, 0x90, 0xF0], #v[0xF0, 0x90, 0xF0, 0x10, 0xF0],
     #v[0xF0, 0x90, 0xF0, 0x90, 0x90], #v[0xE0, 0x90, 0xE0, 0x90, 0xE0],
     #v[0xF0, 0x80, 0x80, 0x80, 0xF0], #v[0xE0, 0x90, 0x90, 0x90, 0xE0],
     #v[0xF0, 0x80, 0xF0, 0x80, 0xF0], #v[0xF0, 0x80, 0xF0, 0x80, 0x80]]

/-- Every parameter at its default (R7). DESIGN CHOICE, logs 3, 5 to 9 and 20. -/
def config : Config where
  font := defaultFont
  stackPolicy := .fault
  oobPolicy := .fault
  keyIndexPolicy := .fault
  vfOrder := .flagLast
  drawXPolicy := .clipAll
  stepHz := 600
  timerHz := 60
  displayHz := 60

end Sys2Proof.Machine
end

