-- ==== Sys2Proof/Machine/State.lean ====
section
/-! DEFINITION. The state of the machine (10_state.md), as plain data, and its value after reset (R34). -/

namespace Sys2Proof.Machine

/-- Memory: (address, byte) cells, addresses strictly rising, no cell equal to what an unlisted address reads as
(Machine/Memory.lean says what that is, and holds every operation). Log 17. -/
abbrev Memory := List Host.Cell

/-- The five fault causes of 60_exceptions.md R171. -/
inductive FaultCause where
  /-- Code 1: either instruction byte lies above address 4095. -/
  | fetchOutOfRange
  /-- Code 2: LD B, LD [I], LD Vx,[I] or DRW would touch an address above 4095. -/
  | dataOutOfRange
  /-- Code 3: CALL with sixteen entries on the stack. -/
  | stackOverflow
  /-- Code 4: RET with none. -/
  | stackUnderflow
  /-- Code 5: SKP or SKNP with a register value above 15. -/
  | keyIndexOutOfRange
  deriving DecidableEq, Repr

/-- The fault record of 10_state.md R33 and 60_exceptions.md R172. -/
structure FaultRecord where
  cause : FaultCause
  /-- The address the faulting instruction was, or was to be, fetched from. -/
  atPc : Word
  /-- The instruction word; 0 when the fetch itself faulted. -/
  opcode : Word
  /-- An address, a stack pointer or a key index (R171); the spec states no width. Log 19. -/
  info : Nat
  deriving DecidableEq, Repr

/-- Every piece of state the spec gives the machine (10_state.md R20 to R33), and `draws`, which is the model's own. -/
structure State where
  /-- V[0]..V[15], V[15] being VF, the flag (R20, R22). -/
  v : Vector Byte 16
  /-- I, the address register; all 16 bits are state (R23). -/
  i : Word
  /-- pc, the address of the next instruction (R24); no alignment (R25). -/
  pc : Word
  /-- S[0]..S[15], the return addresses; a popped entry is not erased (R26). -/
  stack : Vector Word 16
  /-- SP, the number of valid entries, 0..16 (R26). -/
  sp : Fin 17
  /-- mem (R27). -/
  mem : Memory
  /-- DT, the delay timer (R28). -/
  dt : Byte
  /-- ST, the sound timer (R28). -/
  st : Byte
  /-- FB[0]..FB[31], row 0 at the top (R29). -/
  fb : Vector Row 32
  /-- K[0]..K[15], true = pressed (R30). -/
  keys : Vector Bool 16
  /-- The register that will receive the next key press; none = Running (R31, R32). -/
  awaited : Option Reg
  /-- The sticky fault record; none = unfaulted (R33). -/
  fault : Option FaultRecord
  /-- The model's own: how many times RND has drawn (log 4). No statement rests on its value. -/
  draws : Nat
  deriving DecidableEq, Repr

/-- Why the machine could stop without a next state: it has no such case. Every fault of 60_exceptions.md R171 has an entry the spec
describes (R174), so it is a next state that holds the record, and this type has no constructor. Safe: nothing is hidden
in it. Log 11. -/
inductive Fault where
  deriving DecidableEq, Repr

/-- What the model refuses. -/
inductive Refusal where
  /-- Raised by an arm of `exec` for an instruction without a meaning; no arm does so. Safe. -/
  | notModelled (mnemonic : String)
  /-- Raised by the operation `LoadProgram` on a byte sequence longer than 3584, for which it is not defined
  (70_reset_and_hazards.md R194, "must be rejected or truncated by the loader"). No `Step` raises it. Safe. Log 21. -/
  | programTooLong
  deriving DecidableEq, Repr

/-- The machine right after `Initialize`, the power-on reset: the first column of 10_state.md R34. Nothing is listed in memory,
so it reads as FONT and zeros. `draws` 0 is a DESIGN CHOICE (log 4). -/
def State.reset : State where
  v := Vector.replicate 16 0
  i := 0
  pc := 512
  stack := Vector.replicate 16 0
  sp := 0
  mem := []
  dt := 0
  st := 0
  fb := Vector.replicate 32 0
  keys := Vector.replicate 16 false
  awaited := none
  fault := none
  draws := 0

end Sys2Proof.Machine
end

