-- ==== Sys2Proof/Machine/Memory.lean ====
section
/-! DEFINITION. Memory (20_memory.md): 4096 bytes of ordinary RAM. Every operation keeps the canonical form `Memory.wf`. -/

namespace Sys2Proof.Machine

/-- MEM_SIZE (00_scope.md R6). -/
def memSize : Nat := 4096

/-- PROG_BASE (00_scope.md R6): the first program byte and the reset value of pc. -/
def progBase : Nat := 512

/-- What `Initialize` leaves at an address (10_state.md R34): glyph d of FONT at 5·d .. 5·d+4, zero elsewhere. An unlisted
address reads as this. -/
def initialByte (f : Font) (a : Nat) : Byte :=
  if h : a < 80 then f[a / 5][a % 5]'(Nat.mod_lt _ (by decide)) else 0

/-- The byte an address holds under a font. Callers have made the range test of R53. -/
def Memory.readWith (f : Font) : Memory → Nat → Byte
  | [], a => initialByte f a
  | (b, w) :: m, a => if a = b then w else Memory.readWith f m a

/-- The byte an address holds in the machine. -/
abbrev Memory.read (m : Memory) (a : Nat) : Byte := Memory.readWith config.font m a

/-- Put a cell at its place in a list of rising addresses that does not hold its address. -/
def Memory.insertCell : Memory → Nat → Byte → Memory
  | [], a, w => [(a, w)]
  | (b, u) :: m, a, w => if a < b then (a, w) :: (b, u) :: m else (b, u) :: Memory.insertCell m a w

/-- The cells of every other address. -/
def Memory.without (m : Memory) (a : Nat) : Memory := m.filter fun c => c.1 != a

/-- Store one byte. A cell that would say what an unlisted address says anyway is removed, so equal memories are equal
lists. -/
def Memory.writeWith (f : Font) (m : Memory) (a : Nat) (w : Byte) : Memory :=
  if w = initialByte f a then m.without a else (m.without a).insertCell a w

/-- Store one byte in the machine's memory. -/
abbrev Memory.write (m : Memory) (a : Nat) (w : Byte) : Memory := Memory.writeWith config.font m a w

/-- The canonical form under a font: rising addresses inside memory, no cell that repeats what is there anyway. -/
def Memory.wfWith (f : Font) (m : Memory) : Bool :=
  decide (m.Pairwise fun c d => c.1 < d.1) && m.all fun c => decide (c.1 < memSize) && c.2 != initialByte f c.1

/-- The canonical form of the machine's memory. -/
abbrev Memory.wf (m : Memory) : Bool := Memory.wfWith config.font m

/-- The address an access goes to once the range test has passed (R52, R53): itself, or reduced under `wrap4096`, an
assumption that errs toward proving (log 6). -/
def physical (p : OobPolicy) (a : Nat) : Nat :=
  match p with
  | .fault => a
  | .wrap4096 => a % memSize

/-- `MemRead(addr, 1)` after the range test (R52). -/
def Memory.load (c : Config) (m : Memory) (a : Nat) : Byte := Memory.readWith c.font m (physical c.oobPolicy a)

/-- `MemWrite(addr, 1, v)` for consecutive addresses in increasing order, after the range test (R52). -/
def Memory.store (c : Config) (m : Memory) (a : Nat) : List Byte → Memory
  | [] => m
  | w :: ws => Memory.store c (Memory.writeWith c.font m (physical c.oobPolicy a) w) (a + 1) ws

/-- Zero the program region, 512..4095 (70_reset_and_hazards.md R192): no cell there, since it reads as zero then. -/
def Memory.clearProgram (m : Memory) : Memory := m.filter fun c => decide (c.1 < progBase)

end Sys2Proof.Machine
end

