-- ==== Sys2Proof/Machine/Ops.lean ====
section
/-! DEFINITION. The named operations over the state, taking a fault, and the two ways an instruction ends. Each reads and
writes the state through one place. -/

namespace Sys2Proof.Machine

/-- V[x]. -/
def State.reg (s : State) (x : Reg) : Byte := s.v[x]

/-- The byte the machine's memory holds at an address (10_state.md R27). -/
def State.byteAt (s : State) (a : Nat) : Byte := s.mem.read a

/-- V[x] <- b. -/
def State.setReg (s : State) (x : Reg) (b : Byte) : State := { s with v := s.v.set x b }

/-- V <- the whole register file. -/
def State.setRegs (s : State) (v : Vector Byte 16) : State := { s with v := v }

/-- I <- w. -/
def State.setI (s : State) (w : Word) : State := { s with i := w }

/-- pc <- w. -/
def State.setPc (s : State) (w : Word) : State := { s with pc := w }

/-- S <- stack and SP <- sp. -/
def State.setStack (s : State) (stack : Vector Word 16) (sp : Fin 17) : State := { s with stack := stack, sp := sp }

/-- mem <- m. -/
def State.setMem (s : State) (m : Memory) : State := { s with mem := m }

/-- DT <- b. -/
def State.setDt (s : State) (b : Byte) : State := { s with dt := b }

/-- ST <- b. -/
def State.setSt (s : State) (b : Byte) : State := { s with st := b }

/-- FB <- fb. -/
def State.setFb (s : State) (fb : Vector Row 32) : State := { s with fb := fb }

/-- K[k] <- b. -/
def State.setKeyFlag (s : State) (k : Key) (b : Bool) : State := { s with keys := s.keys.set k b }

/-- awaited <- r. -/
def State.setAwaited (s : State) (r : Option Reg) : State := { s with awaited := r }

/-- One draw of RND has been used (log 4). -/
def State.countDraw (s : State) : State := { s with draws := s.draws + 1 }

/-- `pc <- (pc + 2) mod 65536` (40_step.md R93; 10_state.md R25). -/
def State.advance (s : State) : State := s.setPc (s.pc + 2)

/-- What `raise` carries (00_scope.md R10): the cause and its info. -/
structure Trap where
  cause : FaultCause
  info : Nat
  deriving DecidableEq, Repr

/-- The code of a cause (60_exceptions.md R171). -/
def FaultCause.code : FaultCause → Nat
  | .fetchOutOfRange => 1
  | .dataOutOfRange => 2
  | .stackOverflow => 3
  | .stackUnderflow => 4
  | .keyIndexOutOfRange => 5

/-- Fault entry (60_exceptions.md R174, 40_step.md R98): `s` is the state before the step; nothing changes but the record.
`atPc` is the address the instruction was fetched from, `opcode` its word, 0 for a fetch fault (R172). -/
def State.takeFault (s : State) (t : Trap) (opcode : Word) : State :=
  { s with fault := some { cause := t.cause, atPc := s.pc, opcode := opcode, info := t.info } }

/-- Fault exit (R175): no instruction does it, only Initialize, Restart and FullReset. -/
def State.clearFault (s : State) : State := { s with fault := none }

/-- An instruction that cannot fault: `pc` advances, then its effect (R93). `s` holds the address of the instruction in `pc`. -/
def retire (s : State) (effect : State → State) : Host.Outcome State Fault Refusal :=
  .next (effect s.advance)

/-- An instruction that can fault: if its effect on the advanced state raises, every write of the step is undone and the
fault is taken instead (40_step.md R90, R98). -/
def attempt (i : Instr) (s : State) (effect : State → Except Trap State) : Host.Outcome State Fault Refusal :=
  match effect s.advance with
  | .ok t => .next t
  | .error e => .next (s.takeFault e (encode i))

/-- The fetch (40_step.md R92): the two bytes at pc and pc + 1, as natural numbers, big-endian; a fault if either lies
above 4095, with the lowest such address (20_memory.md R53). -/
def fetch (c : Config) (s : State) : Except Trap Word :=
  let a := s.pc.toNat
  if c.oobPolicy = .fault ∧ memSize ≤ a + 1 then .error { cause := .fetchOutOfRange, info := max a memSize }
  else .ok (wordOfBytes (s.mem.load c a) (s.mem.load c (a + 1)))

/-- CALL's push (41_control_flow.md R102): S[SP] <- ret, SP <- SP + 1, a fault at SP = 16. Under `wrap` the slot is SP mod 16 and SP
becomes (SP mod 16) + 1; below 16 that is the same. -/
def push (p : StackPolicy) (ret : Word) (s : State) : Except Trap State :=
  if p = .fault ∧ s.sp.val = 16 then .error { cause := .stackOverflow, info := 16 }
  else
    .ok (s.setStack (s.stack.set (s.sp.val % 16) ret (Nat.mod_lt _ (by decide)))
      ⟨s.sp.val % 16 + 1, by omega⟩)

/-- RET's pop (R100): SP <- SP - 1, pc <- S[SP], a fault at SP = 0. Under `wrap` the index is (SP - 1) mod 16; above 0 that is the
same. The popped entry stays (10_state.md R26). -/
def popPc (p : StackPolicy) (s : State) : Except Trap State :=
  if p = .fault ∧ s.sp.val = 0 then .error { cause := .stackUnderflow, info := 0 }
  else
    .ok ((s.setStack s.stack ⟨(s.sp.val + 15) % 16, by omega⟩).setPc
      (s.stack[(s.sp.val + 15) % 16]'(Nat.mod_lt _ (by decide))))

/-- A taken skip advances pc by a further 2 (R103). -/
def skipIf (c : Bool) (s : State) : State := if c then s.setPc (s.pc + 2) else s

end Sys2Proof.Machine
end

