-- ==== Sys2Proof/Machine/Flags.lean ====
section
/-! DEFINITION. The flag computations and the one place where an ALU instruction writes a result and its flag. A flag is
exactly 0 or 1 (42_alu.md R132) and is computed from the operands before the instruction (R133 (b)). -/

namespace Sys2Proof.Machine

/-- `c ? 1 : 0` as a byte. -/
def flagByte (c : Bool) : Byte := if c then 1 else 0

/-- The true sum exceeds 255 (R126). -/
def carryOut (a b : Byte) : Byte := flagByte (decide (255 < a.toNat + b.toNat))

/-- NOT borrow of a - b: a ≥ b (R127, R129). -/
def noBorrow (a b : Byte) : Byte := flagByte (decide (b.toNat ≤ a.toNat))

/-- Bit 0, the bit a right shift drops (R128). -/
def bitZero (b : Byte) : Byte := flagByte (b.getLsbD 0)

/-- Bit 7, the bit a left shift drops (R130). -/
def bitSeven (b : Byte) : Byte := flagByte (b.getLsbD 7)

/-- Write a result to V[x] and a flag to VF, in the order of VF_ORDER (R133 (c)); the order shows only when x is VF. -/
def writeWithFlag (o : VfOrder) (x : Reg) (result flag : Byte) (s : State) : State :=
  match o with
  | .flagLast => (s.setReg x result).setReg vf flag
  | .resultLast => (s.setReg vf flag).setReg x result

end Sys2Proof.Machine
end

