-- ==== Sys2Proof/Machine/Alu.lean ====
section
/-! DEFINITION. The arithmetic and logic instructions (42_alu.md). None can fault; only ADD Vx,Vy, SUB, SUBN, SHR and SHL write VF
as a flag (R133). -/

namespace Sys2Proof.Machine

/-- An instruction that writes `f V[x] V[y]` to V[x] and no flag. -/
def combine (f : Byte → Byte → Byte) (x y : Reg) (s : State) : Host.Outcome State Fault Refusal :=
  retire s fun t => t.setReg x (f (t.reg x) (t.reg y))

/-- An instruction that writes `f V[x] V[y]` to V[x] and the flag `g V[x] V[y]` to VF, both from the values before (R133). -/
def combineWithFlag (c : Config) (f g : Byte → Byte → Byte) (x y : Reg) (s : State) : Host.Outcome State Fault Refusal :=
  retire s fun t => writeWithFlag c.vfOrder x (f (t.reg x) (t.reg y)) (g (t.reg x) (t.reg y)) t

/-- LD Vx, NN (R120). -/
def execLdImm (x : Reg) (nn : Byte) (s : State) : Host.Outcome State Fault Refusal :=
  retire s fun t => t.setReg x nn

/-- ADD Vx, NN (R121): no flag. -/
def execAddImm (x : Reg) (nn : Byte) (s : State) : Host.Outcome State Fault Refusal :=
  retire s fun t => t.setReg x (t.reg x + nn)

/-- LD Vx, Vy (R122). -/
def execLdReg (x y : Reg) (s : State) : Host.Outcome State Fault Refusal :=
  combine (fun _ b => b) x y s

/-- OR Vx, Vy (R123): VF is not written. -/
def execOrReg (x y : Reg) (s : State) : Host.Outcome State Fault Refusal :=
  combine (fun a b => a ||| b) x y s

/-- AND Vx, Vy (R124): VF is not written. -/
def execAndReg (x y : Reg) (s : State) : Host.Outcome State Fault Refusal :=
  combine (fun a b => a &&& b) x y s

/-- XOR Vx, Vy (R125): VF is not written. -/
def execXorReg (x y : Reg) (s : State) : Host.Outcome State Fault Refusal :=
  combine (fun a b => a ^^^ b) x y s

/-- ADD Vx, Vy (R126). -/
def execAddRegWith (c : Config) (x y : Reg) (s : State) : Host.Outcome State Fault Refusal :=
  combineWithFlag c (fun a b => a + b) carryOut x y s

/-- ADD Vx, Vy of the machine. -/
def execAddReg (x y : Reg) (s : State) : Host.Outcome State Fault Refusal :=
  execAddRegWith config x y s

/-- SUB Vx, Vy (R127): Vx - Vy. -/
def execSubRegWith (c : Config) (x y : Reg) (s : State) : Host.Outcome State Fault Refusal :=
  combineWithFlag c (fun a b => a - b) noBorrow x y s

/-- SUB Vx, Vy of the machine. -/
def execSubReg (x y : Reg) (s : State) : Host.Outcome State Fault Refusal :=
  execSubRegWith config x y s

/-- SUBN Vx, Vy (R129): Vy - Vx. -/
def execSubnRegWith (c : Config) (x y : Reg) (s : State) : Host.Outcome State Fault Refusal :=
  combineWithFlag c (fun a b => b - a) (fun a b => noBorrow b a) x y s

/-- SUBN Vx, Vy of the machine. -/
def execSubnReg (x y : Reg) (s : State) : Host.Outcome State Fault Refusal :=
  execSubnRegWith config x y s

/-- SHL Vx, Vy (R130): the source is Vy. -/
def execShlRegWith (c : Config) (x y : Reg) (s : State) : Host.Outcome State Fault Refusal :=
  combineWithFlag c (fun _ b => b <<< 1) (fun _ b => bitSeven b) x y s

/-- SHL Vx, Vy of the machine. -/
def execShlReg (x y : Reg) (s : State) : Host.Outcome State Fault Refusal :=
  execShlRegWith config x y s

/-- SHR Vx, Vy (R128): the source is Vy. -/
def execShrRegWith (c : Config) (x y : Reg) (s : State) : Host.Outcome State Fault Refusal :=
  combineWithFlag c (fun _ b => b >>> 1) (fun _ b => bitZero b) x y s

/-- SHR Vx, Vy of the machine. -/
def execShrReg (x y : Reg) (s : State) : Host.Outcome State Fault Refusal :=
  execShrRegWith config x y s

/-- RND with the byte it draws as an argument (R131). -/
def drawRandom (rand : Byte) (x : Reg) (nn : Byte) (s : State) : State :=
  (s.setReg x (rand &&& nn)).countDraw

/-- RND Vx, NN (R131): the next free byte. -/
def execRnd (x : Reg) (nn : Byte) (s : State) : Host.Outcome State Fault Refusal :=
  retire s fun t => drawRandom (Config.randomByte t.draws) x nn t

end Sys2Proof.Machine
end

