-- ==== Sys2Proof/Machine/Operands.lean ====
section
/-! DEFINITION. The operand forms: immediates widened to 16 bits, memory operands through I with their range test, register
ranges, key indices, and the bytes an instruction stores. -/

namespace Sys2Proof.Machine

/-- NNN as a 16-bit value, zero-extended (30_encoding.md R73). -/
def addressOf (nnn : BitVec 12) : Word := nnn.setWidth 16

/-- A register value as a 16-bit value, zero-extended. -/
def wide (b : Byte) : Word := b.setWidth 16

/-- The range test for `count` bytes from `base` (43_memory_transfer.md R146, 20_memory.md R53): with a byte to touch and one
of them above 4095, the lowest such address is raised. -/
def checkData (p : OobPolicy) (base : Word) (count : Nat) : Except Trap Unit :=
  if p = .fault ∧ 0 < count ∧ memSize < base.toNat + count then
    .error { cause := .dataOutOfRange, info := max base.toNat memSize }
  else .ok ()

/-- I moved past `count` bytes, modulo 65536 (R146: not an access). -/
def pastData (base : Word) (count : Nat) : Word := base + BitVec.ofNat 16 count

/-- The key an 8-bit register value names (45_timers_keypad.md R166). -/
def keyIndex (p : KeyIndexPolicy) (b : Byte) : Except Trap Key :=
  if h : b.toNat < 16 then .ok ⟨b.toNat, h⟩
  else
    match p with
    | .fault => .error { cause := .keyIndexOutOfRange, info := b.toNat }
    | .lowNibble => .ok ⟨b.toNat % 16, Nat.mod_lt _ (by decide)⟩

/-- The three base-10 digits of a byte, hundreds first (R143). -/
def bcdDigits (b : Byte) : List Byte :=
  [BitVec.ofNat 8 (b.toNat / 100), BitVec.ofNat 8 (b.toNat / 10 % 10), BitVec.ofNat 8 (b.toNat % 10)]

/-- V[0]..V[x], V[0] first (R144). -/
def lowRegs (v : Vector Byte 16) (x : Reg) : List Byte := v.toList.take (x.val + 1)

/-- V[k] <- bytes k for k = 0 .. n-1, ascending; the other registers are kept (R145). -/
def loadLowRegs (bytes : Nat → Byte) : Nat → Vector Byte 16 → Vector Byte 16
  | 0, v => v
  | n + 1, v => (loadLowRegs bytes n v).setIfInBounds n (bytes n)

end Sys2Proof.Machine
end

