-- ==== Sys2Proof/Machine/ControlFlow.lean ====
section
/-! DEFINITION. RET, JP, CALL, the four register and immediate skips, JP V0 (41_control_flow.md). -/

namespace Sys2Proof.Machine

/-- RET (R100). -/
def execRetWith (c : Config) (s : State) : Host.Outcome State Fault Refusal :=
  attempt .ret s fun t => popPc c.stackPolicy t

/-- RET of the machine. -/
def execRet (s : State) : Host.Outcome State Fault Refusal :=
  execRetWith config s

/-- JP NNN (R101). -/
def execJp (nnn : BitVec 12) (s : State) : Host.Outcome State Fault Refusal :=
  retire s fun t => t.setPc (addressOf nnn)

/-- CALL NNN (R102): the value pushed is the advanced pc. -/
def execCallWith (c : Config) (nnn : BitVec 12) (s : State) : Host.Outcome State Fault Refusal :=
  attempt (.call nnn) s fun t => (push c.stackPolicy t.pc t).map fun u => u.setPc (addressOf nnn)

/-- CALL NNN of the machine. -/
def execCall (nnn : BitVec 12) (s : State) : Host.Outcome State Fault Refusal :=
  execCallWith config nnn s

/-- SE Vx, NN (R103). -/
def execSeImm (x : Reg) (nn : Byte) (s : State) : Host.Outcome State Fault Refusal :=
  retire s fun t => skipIf (t.reg x == nn) t

/-- SNE Vx, NN (R104). -/
def execSneImm (x : Reg) (nn : Byte) (s : State) : Host.Outcome State Fault Refusal :=
  retire s fun t => skipIf (t.reg x != nn) t

/-- SE Vx, Vy (R105). -/
def execSeReg (x y : Reg) (s : State) : Host.Outcome State Fault Refusal :=
  retire s fun t => skipIf (t.reg x == t.reg y) t

/-- SNE Vx, Vy (R106). -/
def execSneReg (x y : Reg) (s : State) : Host.Outcome State Fault Refusal :=
  retire s fun t => skipIf (t.reg x != t.reg y) t

/-- JP V0, NNN (R107): the sum is not reduced to 12 bits. -/
def execJpV0 (nnn : BitVec 12) (s : State) : Host.Outcome State Fault Refusal :=
  retire s fun t => t.setPc (addressOf nnn + wide (t.reg 0))

end Sys2Proof.Machine
end

