-- ==== Sys2Proof/Machine/Graphics.lean ====
section
/-! DEFINITION. CLS and DRW (44_graphics.md). Rows wrap, columns clip. -/

namespace Sys2Proof.Machine

/-- The columns a sprite is shifted right by (R152): all of the register value, or its residue under `mod64`. -/
def originColumn (p : DrawXPolicy) (x : Byte) : Nat :=
  match p with
  | .clipAll => x.toNat
  | .mod64 => x.toNat % 64

/-- The row mask (R152): the byte in the top 8 bits of a row, shifted right by the origin column; bits past the right edge
are lost. -/
def rowMask (b : Byte) (column : Nat) : Row := (b.setWidth 64 <<< 56) >>> column

/-- The framebuffer row of sprite row r (R151). -/
def targetRow (y : Byte) (r : Nat) : Fin 32 := ⟨(y.toNat + r) % 32, Nat.mod_lt _ (by decide)⟩

/-- One sprite row: collision is tested on the row's current contents, then the mask is XORed in (R151). -/
def drawRow (b : Byte) (column : Nat) (row : Fin 32) (fb : Vector Row 32) : Vector Row 32 × Bool :=
  let m := rowMask b column
  (fb.set row (fb[row] ^^^ m), fb[row] &&& m != 0)

/-- Sprite rows 0 .. n-1, ascending; the collisions are OR-ed (R151). -/
def drawRows (sprite : Nat → Byte) (column : Nat) (y : Byte) : Nat → Vector Row 32 → Vector Row 32 × Bool
  | 0, fb => (fb, false)
  | n + 1, fb =>
    let before := drawRows sprite column y n fb
    let now := drawRow (sprite n) column (targetRow y n) before.1
    (now.1, before.2 || now.2)

/-- CLS (R150). -/
def execCls (s : State) : Host.Outcome State Fault Refusal :=
  retire s fun t => t.setFb (Vector.replicate 32 0)

/-- DRW Vx, Vy, N (R151): the origin is sampled before VF is written (D10, log 10), and VF is written also when N = 0. -/
def execDrwWith (c : Config) (x y : Reg) (n : BitVec 4) (s : State) : Host.Outcome State Fault Refusal :=
  attempt (.drw x y n) s fun t =>
    (checkData c.oobPolicy t.i n.toNat).map fun _ =>
      let drawn := drawRows (fun r => t.mem.load c (t.i.toNat + r))
        (originColumn c.drawXPolicy (t.reg x)) (t.reg y) n.toNat t.fb
      (t.setFb drawn.1).setReg vf (flagByte drawn.2)

/-- DRW Vx, Vy, N of the machine. -/
def execDrw (x y : Reg) (n : BitVec 4) (s : State) : Host.Outcome State Fault Refusal :=
  execDrwWith config x y n s

end Sys2Proof.Machine
end

