-- ==== Sys2Proof/Machine/MemoryTransfer.lean ====
section
/-! DEFINITION. LD I, ADD I, LD F, LD B, LD [I], LD Vx,[I] (43_memory_transfer.md). None writes VF as a flag. The range test of a
transfer comes before any of its effects (R146). -/

namespace Sys2Proof.Machine

/-- LD I, NNN (R140). -/
def execLdI (nnn : BitVec 12) (s : State) : Host.Outcome State Fault Refusal :=
  retire s fun t => t.setI (addressOf nnn)

/-- ADD I, Vx (R141): modulo 65536, no flag. -/
def execAddI (x : Reg) (s : State) : Host.Outcome State Fault Refusal :=
  retire s fun t => t.setI (t.i + wide (t.reg x))

/-- LD F, Vx (R142): the whole register value times 5. -/
def execLdF (x : Reg) (s : State) : Host.Outcome State Fault Refusal :=
  retire s fun t => t.setI (wide (t.reg x) * 5)

/-- LD B, Vx (R143): three bytes at I; I is kept. -/
def execLdBWith (c : Config) (x : Reg) (s : State) : Host.Outcome State Fault Refusal :=
  attempt (.ldB x) s fun t =>
    (checkData c.oobPolicy t.i 3).map fun _ =>
      t.setMem (t.mem.store c t.i.toNat (bcdDigits (t.reg x)))

/-- LD B, Vx of the machine. -/
def execLdB (x : Reg) (s : State) : Host.Outcome State Fault Refusal :=
  execLdBWith config x s

/-- LD [I], Vx (R144): V[0]..V[x] at I, which moves past them. -/
def execDumpWith (c : Config) (x : Reg) (s : State) : Host.Outcome State Fault Refusal :=
  attempt (.dump x) s fun t =>
    (checkData c.oobPolicy t.i (x.val + 1)).map fun _ =>
      (t.setMem (t.mem.store c t.i.toNat (lowRegs t.v x))).setI (pastData t.i (x.val + 1))

/-- LD [I], Vx of the machine. -/
def execDump (x : Reg) (s : State) : Host.Outcome State Fault Refusal :=
  execDumpWith config x s

/-- LD Vx, [I] (R145): V[0]..V[x] from I, which moves past them. -/
def execLoadWith (c : Config) (x : Reg) (s : State) : Host.Outcome State Fault Refusal :=
  attempt (.load x) s fun t =>
    (checkData c.oobPolicy t.i (x.val + 1)).map fun _ =>
      (t.setRegs (loadLowRegs (fun k => t.mem.load c (t.i.toNat + k)) (x.val + 1) t.v)).setI
        (pastData t.i (x.val + 1))

/-- LD Vx, [I] of the machine. -/
def execLoad (x : Reg) (s : State) : Host.Outcome State Fault Refusal :=
  execLoadWith config x s

end Sys2Proof.Machine
end

