-- ==== Sys2Proof/Machine/TimersKeypad.lean ====
section
/-! DEFINITION. The timer and keypad instructions (45_timers_keypad.md): they transfer and test; the timers count and the keys
change by operations of the host (Machine/Interface.lean). -/

namespace Sys2Proof.Machine

/-- LD Vx, DT (R160). -/
def execLdVxDt (x : Reg) (s : State) : Host.Outcome State Fault Refusal :=
  retire s fun t => t.setReg x t.dt

/-- LD DT, Vx (R161). -/
def execLdDtVx (x : Reg) (s : State) : Host.Outcome State Fault Refusal :=
  retire s fun t => t.setDt (t.reg x)

/-- LD ST, Vx (R162). -/
def execLdStVx (x : Reg) (s : State) : Host.Outcome State Fault Refusal :=
  retire s fun t => t.setSt (t.reg x)

/-- LD Vx, K (R163): only `awaited` is written; V[x] is written by the `SetKey` that ends the wait. -/
def execLdVxK (x : Reg) (s : State) : Host.Outcome State Fault Refusal :=
  retire s fun t => t.setAwaited (some x)

/-- SKP Vx (R164). -/
def execSkpWith (c : Config) (x : Reg) (s : State) : Host.Outcome State Fault Refusal :=
  attempt (.skp x) s fun t => (keyIndex c.keyIndexPolicy (t.reg x)).map fun k => skipIf t.keys[k] t

/-- SKP Vx of the machine. -/
def execSkp (x : Reg) (s : State) : Host.Outcome State Fault Refusal :=
  execSkpWith config x s

/-- SKNP Vx (R165). -/
def execSknpWith (c : Config) (x : Reg) (s : State) : Host.Outcome State Fault Refusal :=
  attempt (.sknp x) s fun t => (keyIndex c.keyIndexPolicy (t.reg x)).map fun k => skipIf (!t.keys[k]) t

/-- SKNP Vx of the machine. -/
def execSknp (x : Reg) (s : State) : Host.Outcome State Fault Refusal :=
  execSknpWith config x s

end Sys2Proof.Machine
end

