-- ==== Sys2Proof/Machine/Cycle.lean ====
section
/-! DEFINITION. The `Step` operation (40_step.md R90): the two gates, fetch, decode, dispatch, under any choice of the parameters
and for any dispatch. -/

namespace Sys2Proof.Machine

/-- A dispatch: what an instruction does in a state. -/
abbrev Dispatch := Instr → State → Host.Outcome State Fault Refusal

/-- Run the word fetched from pc: its instruction, or, when no row matches, only the advance of pc (R95). -/
def runWord (d : Dispatch) (w : Word) (s : State) : Host.Outcome State Fault Refusal :=
  match decode w with
  | .ok i => d i s
  | .error _ => retire s fun t => t

/-- `Step` (R90): nothing while faulted (R96) or awaiting a key (R91); else fetch (R92), whose fault has opcode 0 (R98), and
run the word. -/
def cycle (c : Config) (d : Dispatch) (s : State) : Host.Outcome State Fault Refusal :=
  if s.fault.isSome then .next s
  else if s.awaited.isSome then .next s
  else
    match fetch c s with
    | .ok w => runWord d w s
    | .error e => .next (s.takeFault e 0)

/-- The dispatch under any choice of the parameters (00_scope.md R7). `exec` is this at `config` (Laws/Params.lean,
`execWith_config`); an instruction that depends on no parameter is the same in both. -/
def execWith (c : Config) : Dispatch
  | .cls, s => execCls s
  | .ret, s => execRetWith c s
  | .jp nnn, s => execJp nnn s
  | .call nnn, s => execCallWith c nnn s
  | .seImm x nn, s => execSeImm x nn s
  | .sneImm x nn, s => execSneImm x nn s
  | .seReg x y, s => execSeReg x y s
  | .sneReg x y, s => execSneReg x y s
  | .ldImm x nn, s => execLdImm x nn s
  | .addImm x nn, s => execAddImm x nn s
  | .ldReg x y, s => execLdReg x y s
  | .orReg x y, s => execOrReg x y s
  | .andReg x y, s => execAndReg x y s
  | .xorReg x y, s => execXorReg x y s
  | .addReg x y, s => execAddRegWith c x y s
  | .subReg x y, s => execSubRegWith c x y s
  | .subnReg x y, s => execSubnRegWith c x y s
  | .shlReg x y, s => execShlRegWith c x y s
  | .shrReg x y, s => execShrRegWith c x y s
  | .ldI nnn, s => execLdI nnn s
  | .jpV0 nnn, s => execJpV0 nnn s
  | .rnd x nn, s => execRnd x nn s
  | .drw x y n, s => execDrwWith c x y n s
  | .skp x, s => execSkpWith c x s
  | .sknp x, s => execSknpWith c x s
  | .ldVxDt x, s => execLdVxDt x s
  | .ldDtVx x, s => execLdDtVx x s
  | .ldStVx x, s => execLdStVx x s
  | .ldVxK x, s => execLdVxK x s
  | .addI x, s => execAddI x s
  | .ldF x, s => execLdF x s
  | .ldB x, s => execLdBWith c x s
  | .dump x, s => execDumpWith c x s
  | .load x, s => execLoadWith c x s

/-- `Step` under any choice of the parameters. -/
def stepWith (c : Config) (s : State) : Host.Outcome State Fault Refusal := cycle c (execWith c) s

/-- A state in which the next `Step` fetches and runs: unfaulted, awaiting no key, pc at an address with two bytes. -/
def readyToFetch (s : State) : State :=
  let t := (s.clearFault).setAwaited none
  if t.pc.toNat + 1 < memSize then t else t.setPc (BitVec.ofNat 16 progBase)

/-- The word stored at pc, high byte first (30_encoding.md R81). -/
def placeWord (w : Word) (s : State) : State :=
  s.setMem (s.mem.store config s.pc.toNat [highByte w, lowByte w])

end Sys2Proof.Machine
end

