-- ==== Sys2Proof/Machine/Step.lean ====
section
/-! DEFINITION. The machine's step is the operation `Step` of 40_step.md R90, written in Machine/Cycle.lean. The host's other
operations (00_scope.md R8) are in Machine/Interface.lean. -/

namespace Sys2Proof.Machine

/-- `Step` (R90) of the machine: its own choice of the parameters and its own dispatch. -/
def step (s : State) : Host.Outcome State Fault Refusal := cycle config exec s

/-- The state with an opcode-table row's word where `step` fetches next; it stands for the load of a program (log 13). -/
def State.withFetchWord (s : State) (nbits w : Nat) : State := placeWord (tableWord nbits w) (readyToFetch s)

end Sys2Proof.Machine
end

