-- ==== Sys2Proof/Machine/Interface.lean ====
section
/-! DEFINITION. The core's whole interface (00_scope.md R8): the operations the host invokes between two steps, in any order
(60_exceptions.md R186), and the outputs. Log 12. -/

namespace Sys2Proof.Machine

/-- One tick of a timer, floored at 0 (60_exceptions.md R178). -/
def tickDown (b : Byte) : Byte := if b = 0 then 0 else b - 1

/-- `TickTimers` (R178). -/
def tickTimers (s : State) : State := (s.setDt (tickDown s.dt)).setSt (tickDown s.st)

/-- The delivery of a press to a pending wait (R179). -/
def deliverKey (k : Key) (s : State) : State :=
  match s.awaited with
  | some r => (s.setReg r (BitVec.ofNat 8 k.val)).setAwaited none
  | none => s

/-- `SetKey(k, pressed)` (R179): the flag is recorded; a press ends a pending wait. -/
def setKey (k : Key) (pressed : Bool) (s : State) : State :=
  let t := s.setKeyFlag k pressed
  if pressed then deliverKey k t else t

/-- `Initialize` (70_reset_and_hazards.md R190). No cell is listed, so memory reads as the font of whichever choice reads it
(`initialByte`). The count of draws goes on: it is no state of the spec's (log 4). -/
def initializeCore (s : State) : State := { State.reset with draws := s.draws }

/-- `Restart` (R191): memory and K are kept. -/
def restart (s : State) : State := { State.reset with mem := s.mem, keys := s.keys, draws := s.draws }

/-- `ClearProgram` (R192). -/
def clearProgram (s : State) : State := s.setMem s.mem.clearProgram

/-- `FullReset` (R193). -/
def fullReset (s : State) : State := clearProgram (restart s)

/-- `LoadProgram(bytes)` for an image that fits (R194): the bytes from 512 up, nothing else. -/
def loadProgramWith (c : Config) (bytes : List Byte) (s : State) : State :=
  s.setMem (s.mem.store c progBase bytes)

/-- `LoadProgram` of the machine. -/
def loadProgram (bytes : List Byte) (s : State) : State := loadProgramWith config bytes s

/-- The operations of 00_scope.md R8. -/
inductive Operation where
  | step
  | tickTimers
  | setKey (k : Key) (pressed : Bool)
  | initializeCore
  | restart
  | clearProgram
  | fullReset
  | loadProgram (bytes : List Byte)
  deriving DecidableEq, Repr

/-- One operation, atomic (R8), under any choice of the parameters and for any `Step`. `LoadProgram` is defined only for an
image that fits; a longer one is refused by the loader and never reaches the core (R194, log 21). -/
def operate (c : Config) (step : State → Host.Outcome State Fault Refusal) (o : Operation) (s : State) :
    Host.Outcome State Fault Refusal :=
  match o with
  | .step => step s
  | .tickTimers => .next (tickTimers s)
  | .setKey k pressed => .next (setKey k pressed s)
  | .initializeCore => .next (initializeCore s)
  | .restart => .next (restart s)
  | .clearProgram => .next (clearProgram s)
  | .fullReset => .next (fullReset s)
  | .loadProgram bytes => if WellFormedImage bytes then .next (loadProgramWith c bytes s) else .refused .programTooLong

/-- One operation of the machine. -/
def perform (o : Operation) (s : State) : Host.Outcome State Fault Refusal := operate config step o s

/-- One operation under any choice of the parameters. -/
def performWith (c : Config) (o : Operation) (s : State) : Host.Outcome State Fault Refusal := operate c (stepWith c) o s

/-- A schedule of operations, in order, up to the first refusal (R186: every schedule is admitted). -/
def inOrder (perform : Operation → State → Host.Outcome State Fault Refusal) :
    List Operation → State → Host.Outcome State Fault Refusal
  | [], s => .next s
  | o :: os, s =>
    match perform o s with
    | .next t => inOrder perform os t
    | .fault r => .fault r
    | .refused r => .refused r

/-- A schedule of the machine. -/
def performAll (os : List Operation) (s : State) : Host.Outcome State Fault Refusal := inOrder perform os s

/-- A schedule under any choice of the parameters. -/
def performAllWith (c : Config) (os : List Operation) (s : State) : Host.Outcome State Fault Refusal :=
  inOrder (performWith c) os s

/-- The boot sequence (70_reset_and_hazards.md R196): `Initialize`, then `LoadProgram`. -/
def boot (bytes : List Byte) (s : State) : Host.Outcome State Fault Refusal :=
  performAll [.initializeCore, .loadProgram bytes] s

/-- The audio output (60_exceptions.md R180). -/
def soundActive (s : State) : Bool := s.st != 0

/-- The pixel at column c of row r, as the renderer sees it (R182; 10_state.md R29): bit 63 - c of the row. -/
def pixel (fb : Vector Row 32) (r : Fin 32) (c : Fin 64) : Bool := fb[r].getLsbD (63 - c.val)

/-- The engine's two states (10_state.md R32), a function of `awaited`. -/
inductive RunState where
  | running
  | awaitingKey
  deriving DecidableEq, Repr

/-- The run state (R32). -/
def runState (s : State) : RunState := if s.awaited.isSome then .awaitingKey else .running

end Sys2Proof.Machine
end

