-- ==== Sys2Proof/Safety.lean ====
section
/-! DEFINITION. The terms claims are stated in: when the machine can run, which fault an instruction is due, what each instruction may
write, the pixels of a sprite, the invariant, reachability and the end-of-run convention. -/

namespace Sys2Proof.Safety

open Sys2Proof.Machine

/-- Neither gate of `Step` holds: unfaulted (40_step.md R96) and in the Running state (R91). -/
abbrev Running (s : State) : Prop := s.fault = none ∧ s.awaited = none

/-- Both instruction bytes lie inside memory: 4094 is the highest address an instruction can be fetched from (R92). -/
abbrev FetchInRange (s : State) : Prop := s.pc.toNat ≤ 4094

/-- The instruction word at pc, high byte first (20_memory.md R54). -/
def wordAtPc (s : State) : Word := wordOfBytes (s.byteAt s.pc.toNat) (s.byteAt (s.pc.toNat + 1))

/-- `count` bytes from I lie inside memory, or there is none to touch (43_memory_transfer.md R146). -/
abbrev DataInRange (s : State) (count : Nat) : Prop := count = 0 ∨ s.i.toNat + count ≤ 4096

/-- The data fault of R171 row 2: the lowest out-of-range address is I if I ≥ 4096, else 4096. -/
def dataTrap (s : State) (count : Nat) : Option Trap :=
  if count = 0 ∨ s.i.toNat + count ≤ 4096 then none
  else some { cause := .dataOutOfRange, info := if 4096 ≤ s.i.toNat then s.i.toNat else 4096 }

/-- The key index fault of R171 row 5. -/
def keyTrap (s : State) (x : Reg) : Option Trap :=
  if (s.reg x).toNat ≤ 15 then none else some { cause := .keyIndexOutOfRange, info := (s.reg x).toNat }

/-- The table of 60_exceptions.md R171, rows 2 to 5: the fault an instruction raises in a state, if any. Row 1 is the fetch's. -/
def dueTrap : Instr → State → Option Trap
  | .call _, s => if s.sp.val = 16 then some { cause := .stackOverflow, info := 16 } else none
  | .ret, s => if s.sp.val = 0 then some { cause := .stackUnderflow, info := 0 } else none
  | .ldB _, s => dataTrap s 3
  | .dump x, s => dataTrap s (x.val + 1)
  | .load x, s => dataTrap s (x.val + 1)
  | .drw _ _ n, s => dataTrap s n.toNat
  | .skp x, s => keyTrap s x
  | .sknp x, s => keyTrap s x
  | _, _ => none

/-- VF is written as a flag (10_state.md R22: the complete list). -/
def setsFlag : Instr → Bool
  | .addReg _ _ | .subReg _ _ | .subnReg _ _ | .shrReg _ _ | .shlReg _ _ | .drw _ _ _ => true
  | _ => false

/-- The registers an instruction names as a destination: Vx, and V0..Vx for the register load. -/
def isDestination (i : Instr) (r : Reg) : Bool :=
  match i with
  | .ldImm x _ | .addImm x _ | .rnd x _ | .ldVxDt x => r == x
  | .ldReg x _ | .orReg x _ | .andReg x _ | .xorReg x _ => r == x
  | .addReg x _ | .subReg x _ | .subnReg x _ | .shrReg x _ | .shlReg x _ => r == x
  | .load x => decide (r ≤ x)
  | _ => false

/-- The general registers an instruction may write. -/
def mayWriteReg (i : Instr) (r : Reg) : Bool := isDestination i r || (setsFlag i && r == vf)

/-- How many bytes an instruction stores, from I up (20_memory.md R50): three for LD B, X + 1 for LD [I], none for the rest. -/
def storedCount : Instr → Nat
  | .ldB _ => 3
  | .dump x => x.val + 1
  | _ => 0

/-- Who writes I (10_state.md R36). -/
def writesI : Instr → Bool
  | .ldI _ | .addI _ | .ldF _ | .dump _ | .load _ => true
  | _ => false

/-- Who writes SP and S (R36). -/
def writesStack : Instr → Bool
  | .call _ | .ret => true
  | _ => false

/-- Who writes FB (R36). -/
def writesFb : Instr → Bool
  | .cls | .drw _ _ _ => true
  | _ => false

/-- Who writes DT (R36). -/
def writesDt : Instr → Bool
  | .ldDtVx _ => true
  | _ => false

/-- Who writes ST (R36). -/
def writesSt : Instr → Bool
  | .ldStVx _ => true
  | _ => false

/-- Who writes `awaited` (R36). -/
def writesAwaited : Instr → Bool
  | .ldVxK _ => true
  | _ => false

/-- Who draws a random byte (42_alu.md R131). -/
def drawsRandom : Instr → Bool
  | .rnd _ _ => true
  | _ => false

/-- The sprite of DRW Vx,Vy,N lights the pixel at row r, column c: some sprite row k falls on r, rows wrapping, and the sprite's
bit 7 - j falls on column x + j = c, columns not wrapping (44_graphics.md R151, R153). -/
def spritePixel (s : State) (x y : Reg) (n : BitVec 4) (r : Fin 32) (c : Fin 64) : Bool :=
  (List.range n.toNat).any fun k =>
    ((s.reg y).toNat + k) % 32 == r.val && decide ((s.reg x).toNat ≤ c.val) && decide (c.val < (s.reg x).toNat + 8)
      && (s.byteAt (s.i.toNat + k)).getLsbD (7 - (c.val - (s.reg x).toNat))

/-- Instructions one after the other, each completing. -/
def execAll : List Instr → State → Host.Outcome State Fault Refusal
  | [], s => .next s
  | i :: is, s =>
    match exec i s with
    | .next t => execAll is t
    | .fault r => .fault r
    | .refused r => .refused r

/-- What every operation keeps. The bounds are those the rules give: a jump with offset reaches at most 0x10FE (41_control_flow.md
R107), a pushed value at most 4096 (R100); a fault record names the present pc (40_step.md R98) and never stands beside a
pending wait (60_exceptions.md R173). -/
structure Invariant (s : State) : Prop where
  mem_canonical : s.mem.wf = true
  pc_bound : s.pc.toNat ≤ 0x10FE
  stack_bound : ∀ k : Fin 16, s.stack[k].toNat ≤ 0x1000
  fault_here : ∀ r, s.fault = some r → r.atPc = s.pc ∧ s.awaited = none

/-- Reached from reset by some schedule of operations (60_exceptions.md R186). -/
inductive Reachable : State → Prop where
  | reset : Reachable State.reset
  | perform {s t : State} (o : Operation) : Reachable s → Machine.perform o s = .next t → Reachable t

/-- The end-of-run convention of 70_reset_and_hazards.md R205: a self-jump at pc, and no fault. The machine does not detect it. -/
def AtSelfJump (s : State) : Prop :=
  Running s ∧ FetchInRange s ∧ ∃ nnn : BitVec 12, decode (wordAtPc s) = .ok (.jp nnn) ∧ nnn.toNat = s.pc.toNat

end Sys2Proof.Safety
end

