-- ==== Sys2Proof/Certificates/Slice0/Obligations.lean ====
section
/-! DEFINITION. The statements for the provers. Each docstring names the rule or the section of spec/ it formalises, and, where a clause
rests on a decision of the spec's own or on a choice of the model, that decision and its log entry. -/

open Sys2Proof Sys2Proof.Machine Sys2Proof.Safety

/-! ### Encoding -/

/-- 30_encoding.md section 4 (the encoding function is the inverse of decoding), for every instruction and every operand value; the
opcode values are the spec's decision D1 (log 1). The second clause is the same on bytes in memory order. -/
def Obligations.DecodeOfEncodeIsTheInstruction : Prop :=
  ∀ (i : Instr) (rest : List Byte), decode (encode i) = .ok i ∧ decodeBytes (encodeBytes i ++ rest) = .ok (i, rest)

/-- 30_encoding.md sections 1 and 4: no bit of a word an instruction is read from is dropped (log 1). -/
def Obligations.EncodeOfDecodeIsTheWord : Prop :=
  ∀ (w : Word) (i : Instr), decode w = .ok i → encode i = w

/-- 30_encoding.md section 3: the decoder refuses exactly the words of the six listed classes, by name. The classes rest on the
spec's decisions D2 and D3 (log 2). -/
def Obligations.DecodeRefusesExactlyUnmatchedWords : Prop :=
  ∀ w : Word, (decode w = .error (.unmatched w) ↔ unmatchedWord w = true) ∧
    ((∃ i, decode w = .ok i) ↔ WellFormedWord w = true)

/-- One word of every family, written out from the pattern column of 30_encoding.md section 2 and the vectors of
95_test_vectors.md (opcode values: D1, log 1). That 0x5121 is refused rests on the exact masks of the spec's decision D2 (log 2). -/
def Obligations.WordsOfEveryFamilyDecode : Prop :=
  decodeBytes [0x00, 0xEE] = .ok (.ret, []) ∧ decodeBytes [0x23, 0x00] = .ok (.call 0x300, []) ∧
  decodeBytes [0x83, 0xA4] = .ok (.addReg 3 10, []) ∧ decodeBytes [0x6A, 0x2F] = .ok (.ldImm 10 0x2F, []) ∧
  decodeBytes [0xF3, 0x33] = .ok (.ldB 3, []) ∧ decodeBytes [0xA2, 0xF0] = .ok (.ldI 0x2F0, []) ∧
  decodeBytes [0xD0, 0x15] = .ok (.drw 0 1 5, []) ∧ decodeBytes [0xE1, 0x9E] = .ok (.skp 1, []) ∧
  decodeBytes [0xF1, 0x07] = .ok (.ldVxDt 1, []) ∧ decodeBytes [0x51, 0x21] = .error (.unmatched 0x5121)

/-! ### Step -/

/-- 40_step.md `Step` and Dispatch: when neither gate holds and the two bytes at pc decode to an instruction, the step is `exec` of it at
that state; `exec` itself advances pc, and nothing else is added around it (log 18). -/
def Obligations.StepRunsTheDecodedInstruction : Prop :=
  ∀ (s : State) (i : Instr), Running s → FetchInRange s → decode (wordAtPc s) = .ok i → step s = exec i s

/-- R95. -/
def Obligations.StepSkipsUnmatchedWord : Prop :=
  ∀ s : State, Running s → FetchInRange s → (∀ i, decode (wordAtPc s) ≠ .ok i) → step s = .next { s with pc := s.pc + 2 }

/-- R91: a wait blocks `Step` and nothing else; of `Step`, `TickTimers` and `SetKey` only a press ends it. -/
def Obligations.AwaitingKeyBlocksOnlyStep : Prop :=
  ∀ (s : State) (x : Reg) (k : Key), s.awaited = some x →
    step s = .next s ∧
    (∃ t, perform .tickTimers s = .next t ∧ t.dt.toNat = s.dt.toNat - 1 ∧ t.st.toNat = s.st.toNat - 1 ∧ t.awaited = some x) ∧
    (∃ t, perform (.setKey k false) s = .next t ∧ t.keys[k] = false ∧ t.awaited = some x) ∧
    (∃ t, perform (.setKey k true) s = .next t ∧ t.keys[k] = true ∧ t.awaited = none)

/-- 40_step.md Fault gate, the spec's decision D8 (log 11): `Step` changes nothing while a fault is recorded. -/
def Obligations.FaultedMachineDoesNotStep : Prop :=
  ∀ (s : State) (f : FaultRecord), s.fault = some f → step s = .next s

/-- 40_step.md Fetch and Precision of faults, the spec's decisions D7 and D8 (logs 6, 11): a fetch with a byte above 4095 changes nothing
but the record, which has opcode 0 and the lowest out-of-range address. -/
def Obligations.FetchBeyondMemoryFaults : Prop :=
  ∀ s : State, Running s → 4095 ≤ s.pc.toNat →
    step s = .next { s with fault := some { cause := .fetchOutOfRange, atPc := s.pc, opcode := 0, info := if 4096 ≤ s.pc.toNat then s.pc.toNat else 4096 } }

/-- 00_scope.md Outcomes with 40_step.md Fault gate (D8, log 11): in every state `Step` ends in a next state, a fault being one that holds its record;
it never stops the machine and never refuses. -/
def Obligations.StepAlwaysAnswersNext : Prop :=
  ∀ s : State, ∃ t, step s = .next t

/-- 60_exceptions.md section 2 (the table of causes, fault entry) and 40_step.md Precision of faults; the faults are the spec's decisions
D5, D7, D8, D12 (logs 5, 6, 7, 11). An instruction due a fault takes it with all other state as before and pc, `at_pc` at the
instruction; one that is due none completes and leaves the record alone. -/
def Obligations.FaultsAreExactAndPrecise : Prop :=
  ∀ (i : Instr) (s : State), ∃ t, exec i s = .next t ∧
    match dueTrap i s with
    | some e => t = { s with fault := some { cause := e.cause, atPc := s.pc, opcode := encode i, info := e.info } }
    | none => t.fault = s.fault

/-- R31: `awaited` is set to an index only by LD Vx, K at pc, and to NONE only by a press, `Restart`, `FullReset` and `Initialize`; while it
is an index, no instruction executes. -/
def Obligations.WaitIsSetAndEndedOnlyByItsEvents : Prop :=
  (∀ (o : Operation) (s t : State), perform o s = .next t → t.awaited ≠ s.awaited →
    (∀ x, t.awaited = some x → o = .step ∧ decode (wordAtPc s) = .ok (.ldVxK x)) ∧
    (t.awaited = none → o = .restart ∨ o = .fullReset ∨ o = .initializeCore ∨ ∃ k, o = .setKey k true)) ∧
  ∀ (s : State) (x : Reg), s.awaited = some x → step s = .next s

/-- 70_reset_and_hazards.md The end of a run, convention for claims: from a self-jump without a fault a step returns to the same state. -/
def Obligations.SelfJumpStepsToItself : Prop :=
  ∀ s : State, AtSelfJump s → step s = .next s

/-! ### Invariants and whole-machine rules -/

/-- 10_state.md sections 11 and 14 (memory canonical form: log 17; pc after reset: D15, log 14): reset meets the invariant. Of a
fault the invariant says only where a recorded one stands; that none is recorded is in ResetsLeaveTheTabledValues. -/
def Obligations.ResetMeetsTheInvariant : Prop :=
  Invariant State.reset

/-- 10_state.md sections 4, 5 and 14, 41_control_flow.md Return and Jump with offset, 40_step.md Precision of faults (D7, D8; logs 6, 11, 17): every step
keeps memory canonical, pc at most 0x10FE, every stack entry at most 4096, and a fault record naming the present pc beside no wait. -/
def Obligations.StepKeepsTheInvariant : Prop :=
  ∀ s t : State, Invariant s → step s = .next t → Invariant t

/-- The same for every operation of 00_scope.md section 5, in any state, so for every interleaving (log 12). -/
def Obligations.EveryOperationKeepsTheInvariant : Prop :=
  ∀ (o : Operation) (s t : State), Invariant s → perform o s = .next t → Invariant t

/-- 10_state.md section 2, the complete list of flag writers, and section 13 (OR, AND, XOR and VF: D27, log 23): an instruction leaves every
general register but its destinations as it was, and VF too unless it is one of the six that set the flag. -/
def Obligations.OnlyDestinationsAndFlagsAreWritten : Prop :=
  ∀ (i : Instr) (s t : State) (r : Reg), exec i s = .next t → mayWriteReg i r = false → t.reg r = s.reg r

/-- 20_memory.md section 1, the table of accesses: every byte outside those an instruction stores (LD B: three from I; LD [I]: X + 1 from I;
every other: none) reads as before. -/
def Obligations.OnlyStoredBytesChange : Prop :=
  ∀ (i : Instr) (s t : State) (a : Nat), exec i s = .next t → (a < s.i.toNat ∨ s.i.toNat + storedCount i ≤ a) →
    t.byteAt a = s.byteAt a

/-- 10_state.md section 13, the table of who writes what (the counter of draws is the model's own, log 4): each piece of state other than V, pc, mem and
fault is left alone by every instruction outside its row; no instruction writes K. -/
def Obligations.OnlyTheNamedInstructionsWrite : Prop :=
  ∀ (i : Instr) (s t : State), exec i s = .next t →
    t.keys = s.keys ∧ (writesI i = false → t.i = s.i) ∧ (writesStack i = false → t.stack = s.stack ∧ t.sp = s.sp) ∧
    (storedCount i = 0 → t.mem = s.mem) ∧ (writesFb i = false → t.fb = s.fb) ∧ (writesDt i = false → t.dt = s.dt) ∧
    (writesSt i = false → t.st = s.st) ∧ (writesAwaited i = false → t.awaited = s.awaited) ∧
    (drawsRandom i = false → t.draws = s.draws)

/-- 10_state.md section 7: no instruction reads ST. Two states that differ only in ST step to states that differ
at most in ST, where each keeps its own or both hold the value just written. -/
def Obligations.SoundTimerIsNeverRead : Prop :=
  ∀ (s t : State) (b : Byte), step s = .next t →
    ∃ u, step { s with st := b } = .next u ∧ { u with st := t.st } = t ∧ (t.st = s.st ∧ u.st = b ∨ u.st = t.st)

/-- The model's own (log 17), for 20_memory.md section 1: two canonical memories that read alike at every address are the same list, so equal
memories are equal data. -/
def Obligations.CanonicalMemoryIsUnique : Prop :=
  ∀ m m' : Memory, m.wf = true → m'.wf = true → (∀ a, m.read a = m'.read a) → m = m'

/-! ### Control flow -/

/-- R101. -/
def Obligations.JumpGoesToItsOperand : Prop :=
  ∀ (nnn : BitVec 12) (s : State), ∃ t, exec (.jp nnn) s = .next t ∧ t.pc.toNat = nnn.toNat ∧ t = { s with pc := t.pc }

/-- R107: the sum is not reduced to 12 bits. -/
def Obligations.JumpWithOffsetAddsRegisterZero : Prop :=
  ∀ (nnn : BitVec 12) (s : State), ∃ t, exec (.jpV0 nnn) s = .next t ∧ t.pc.toNat = nnn.toNat + (s.reg 0).toNat ∧
    t = { s with pc := t.pc }

/-- R103, R104, R105, R106: four bytes on if the condition holds, two if not, and nothing but pc changes. -/
def Obligations.SkipsAdvanceByTwoOrFour : Prop :=
  ∀ (x y : Reg) (nn : Byte) (s : State),
    exec (.seImm x nn) s = .next { s with pc := if s.reg x = nn then s.pc + 4 else s.pc + 2 } ∧
    exec (.sneImm x nn) s = .next { s with pc := if s.reg x = nn then s.pc + 2 else s.pc + 4 } ∧
    exec (.seReg x y) s = .next { s with pc := if s.reg x = s.reg y then s.pc + 4 else s.pc + 2 } ∧
    exec (.sneReg x y) s = .next { s with pc := if s.reg x = s.reg y then s.pc + 2 else s.pc + 4 }

/-- 41_control_flow.md Call, with the slot order of the spec's decision D6 (log 16): below sixteen entries the address after the CALL is pushed at
S[SP], every other entry is kept, and pc goes to the operand. -/
def Obligations.CallPushesTheReturnAddress : Prop :=
  ∀ (nnn : BitVec 12) (s : State), s.sp.val < 16 → ∃ t, exec (.call nnn) s = .next t ∧
    t.sp.val = s.sp.val + 1 ∧ t.pc.toNat = nnn.toNat ∧
    (∀ k : Fin 16, t.stack[k] = if k.val = s.sp.val then s.pc + 2 else s.stack[k]) ∧
    t = { s with stack := t.stack, sp := t.sp, pc := t.pc }

/-- 41_control_flow.md Return, with the slot order of D6 (log 16): above zero entries pc becomes the most recent one; the stack array keeps it. -/
def Obligations.ReturnPopsTheReturnAddress : Prop :=
  ∀ (s : State) (k : Fin 16), s.sp.val = k.val + 1 → ∃ t, exec .ret s = .next t ∧
    t.sp.val = k.val ∧ t.pc = s.stack[k] ∧ t = { s with sp := t.sp, pc := t.pc }

/-- 41_control_flow.md Call and Return with STACK_POLICY = fault, the spec's decision D5 (log 5): the seventeenth CALL and a RET with no entry. -/
def Obligations.StackEndsFault : Prop :=
  ∀ (nnn : BitVec 12) (s : State),
    (s.sp.val = 16 → exec (.call nnn) s = .next { s with fault := some { cause := .stackOverflow, atPc := s.pc, opcode := encode (.call nnn), info := 16 } }) ∧
    (s.sp.val = 0 → exec .ret s = .next { s with fault := some { cause := .stackUnderflow, atPc := s.pc, opcode := 0x00EE, info := 0 } })

/-- The source property of 41_control_flow.md Call (95_test_vectors.md S5; D5, D6, logs 5, 16): calls nested up to the sixteenth entry, then as many returns,
come back to the address after the first call with the stack pointer and the valid entries as they were. -/
def Obligations.NestedCallsReturnWhereTheyStarted : Prop :=
  ∀ (targets : List (BitVec 12)) (s : State), s.sp.val + targets.length ≤ 16 →
    ∃ t, execAll (targets.map Instr.call ++ List.replicate targets.length Instr.ret) s = .next t ∧
      t.pc = (if targets = [] then s.pc else s.pc + 2) ∧
      (∀ k : Fin 16, k.val < s.sp.val → t.stack[k] = s.stack[k]) ∧ t = { s with stack := t.stack, pc := t.pc }

/-! ### Arithmetic and logic -/

/-- R120. -/
def Obligations.LoadImmediateSetsTheRegister : Prop :=
  ∀ (x : Reg) (nn : Byte) (s : State), ∃ t, exec (.ldImm x nn) s = .next t ∧ t.reg x = nn ∧
    (∀ r, r ≠ x → t.reg r = s.reg r) ∧ t = { s with v := t.v, pc := s.pc + 2 }

/-- R121: VF is written only as the named register. -/
def Obligations.AddImmediateWrapsWithoutFlag : Prop :=
  ∀ (x : Reg) (nn : Byte) (s : State), ∃ t, exec (.addImm x nn) s = .next t ∧
    (t.reg x).toNat = ((s.reg x).toNat + nn.toNat) % 256 ∧
    (∀ r, r ≠ x → t.reg r = s.reg r) ∧ t = { s with v := t.v, pc := s.pc + 2 }

/-- R122. -/
def Obligations.RegisterTransferCopies : Prop :=
  ∀ (x y : Reg) (s : State), ∃ t, exec (.ldReg x y) s = .next t ∧ t.reg x = s.reg y ∧
    (∀ r, r ≠ x → t.reg r = s.reg r) ∧ t = { s with v := t.v, pc := s.pc + 2 }

/-- 42_alu.md OR, AND, XOR: each bit of the destination on its own; that VF is not written is the spec's decision D27 (log 23). -/
def Obligations.BitwiseOperationsActOnEveryBit : Prop :=
  ∀ (x y : Reg) (s : State),
    (∃ t, exec (.orReg x y) s = .next t ∧ (∀ k < 8, (t.reg x).getLsbD k = ((s.reg x).getLsbD k || (s.reg y).getLsbD k)) ∧
      (∀ r, r ≠ x → t.reg r = s.reg r) ∧ t = { s with v := t.v, pc := s.pc + 2 }) ∧
    (∃ t, exec (.andReg x y) s = .next t ∧ (∀ k < 8, (t.reg x).getLsbD k = ((s.reg x).getLsbD k && (s.reg y).getLsbD k)) ∧
      (∀ r, r ≠ x → t.reg r = s.reg r) ∧ t = { s with v := t.v, pc := s.pc + 2 }) ∧
    (∃ t, exec (.xorReg x y) s = .next t ∧ (∀ k < 8, (t.reg x).getLsbD k = ((s.reg x).getLsbD k ^^ (s.reg y).getLsbD k)) ∧
      (∀ r, r ≠ x → t.reg r = s.reg r) ∧ t = { s with v := t.v, pc := s.pc + 2 })

/-- 42_alu.md Add registers, from the values before. For x = VF the flag is what remains: the spec's decision D9 (log 8). -/
def Obligations.AddRegistersSumsAndCarries : Prop :=
  ∀ (x y : Reg) (s : State), ∃ t, exec (.addReg x y) s = .next t ∧
    (x ≠ vf → (t.reg x).toNat = ((s.reg x).toNat + (s.reg y).toNat) % 256) ∧
    t.reg vf = (if (s.reg x).toNat + (s.reg y).toNat > 255 then 1 else 0) ∧
    (∀ r, r ≠ x → r ≠ vf → t.reg r = s.reg r) ∧ t = { s with v := t.v, pc := s.pc + 2 }

/-- 42_alu.md Subtract: Vx - Vy, VF = not borrow. For x = VF the flag remains: D9 (log 8). -/
def Obligations.SubtractSetsNotBorrow : Prop :=
  ∀ (x y : Reg) (s : State), ∃ t, exec (.subReg x y) s = .next t ∧
    (x ≠ vf → ((t.reg x).toNat : Int) = ((s.reg x).toNat - (s.reg y).toNat : Int) % 256) ∧
    t.reg vf = (if (s.reg x).toNat ≥ (s.reg y).toNat then 1 else 0) ∧
    (∀ r, r ≠ x → r ≠ vf → t.reg r = s.reg r) ∧ t = { s with v := t.v, pc := s.pc + 2 }

/-- 42_alu.md Subtract reversed: Vy - Vx, VF = not borrow. For x = VF the flag remains: D9 (log 8). -/
def Obligations.SubtractReversedSetsNotBorrow : Prop :=
  ∀ (x y : Reg) (s : State), ∃ t, exec (.subnReg x y) s = .next t ∧
    (x ≠ vf → ((t.reg x).toNat : Int) = ((s.reg y).toNat - (s.reg x).toNat : Int) % 256) ∧
    t.reg vf = (if (s.reg y).toNat ≥ (s.reg x).toNat then 1 else 0) ∧
    (∀ r, r ≠ x → r ≠ vf → t.reg r = s.reg r) ∧ t = { s with v := t.v, pc := s.pc + 2 }

/-- 42_alu.md Shift right: the source is Vy, the bit shifted out goes to VF. For x = VF the flag remains: D9 (log 8). -/
def Obligations.ShiftRightHalvesTheSource : Prop :=
  ∀ (x y : Reg) (s : State), ∃ t, exec (.shrReg x y) s = .next t ∧
    (x ≠ vf → (t.reg x).toNat = (s.reg y).toNat / 2) ∧ (t.reg vf).toNat = (s.reg y).toNat % 2 ∧
    (∀ r, r ≠ x → r ≠ vf → t.reg r = s.reg r) ∧ t = { s with v := t.v, pc := s.pc + 2 }

/-- 42_alu.md Shift left: the source is Vy, VF is its bit 7 as 0 or 1. For x = VF the flag remains: D9 (log 8). -/
def Obligations.ShiftLeftDoublesTheSource : Prop :=
  ∀ (x y : Reg) (s : State), ∃ t, exec (.shlReg x y) s = .next t ∧
    (x ≠ vf → (t.reg x).toNat = (s.reg y).toNat * 2 % 256) ∧ (t.reg vf).toNat = (s.reg y).toNat / 128 ∧
    (∀ r, r ≠ x → r ≠ vf → t.reg r = s.reg r) ∧ t = { s with v := t.v, pc := s.pc + 2 }

/-- 42_alu.md Random, with the draw as the spec's decision D13 and the model's free value (log 4): the result is the next free byte under the
mask, a later RND draws a fresh one, and whatever byte is drawn no bit outside the mask is set. -/
def Obligations.RandomIsTheFreshDrawUnderTheMask : Prop :=
  ∀ (x : Reg) (nn : Byte) (s : State),
    (∃ t, exec (.rnd x nn) s = .next t ∧ t.reg x = Config.randomByte s.draws &&& nn ∧ t.draws = s.draws + 1 ∧
      (∀ r, r ≠ x → t.reg r = s.reg r) ∧ t = { s with v := t.v, pc := s.pc + 2, draws := t.draws }) ∧
    (∀ rand : Byte, (drawRandom rand x nn s).reg x = rand &&& nn) ∧
    (∀ (rand : Byte) (k : Nat), nn.getLsbD k = false → ((drawRandom rand x nn s).reg x).getLsbD k = false)

/-! ### Address register and memory transfer -/

/-- R140. -/
def Obligations.LoadAddressRegisterZeroExtends : Prop :=
  ∀ (nnn : BitVec 12) (s : State), ∃ t, exec (.ldI nnn) s = .next t ∧ t.i.toNat = nnn.toNat ∧
    t = { s with i := t.i, pc := s.pc + 2 }

/-- R141: modulo 65536, VF not written. -/
def Obligations.AddToAddressRegisterWraps : Prop :=
  ∀ (x : Reg) (s : State), ∃ t, exec (.addI x) s = .next t ∧ t.i.toNat = (s.i.toNat + (s.reg x).toNat) % 65536 ∧
    t = { s with i := t.i, pc := s.pc + 2 }

/-- R142: the whole register value times five, no wrap. -/
def Obligations.FontAddressIsFiveTimesTheValue : Prop :=
  ∀ (x : Reg) (s : State), ∃ t, exec (.ldF x) s = .next t ∧ t.i.toNat = (s.reg x).toNat * 5 ∧
    t = { s with i := t.i, pc := s.pc + 2 }

/-- 43_memory_transfer.md BCD decompose inside memory (the range test is D7, log 6): hundreds, tens, ones at I, I + 1, I + 2; every other byte and I are kept. -/
def Obligations.BcdStoresTheThreeDigits : Prop :=
  ∀ (x : Reg) (s : State), s.i.toNat ≤ 4093 → ∃ t, exec (.ldB x) s = .next t ∧
    (t.byteAt s.i.toNat).toNat = (s.reg x).toNat / 100 ∧ (t.byteAt (s.i.toNat + 1)).toNat = (s.reg x).toNat / 10 % 10 ∧
    (t.byteAt (s.i.toNat + 2)).toNat = (s.reg x).toNat % 10 ∧
    (∀ a, (a < s.i.toNat ∨ s.i.toNat + 3 ≤ a) → t.byteAt a = s.byteAt a) ∧
    t = { s with mem := t.mem, pc := s.pc + 2 }

/-- 43_memory_transfer.md Register dump inside memory (D7, log 6): V0..VX at I upward, I past them; every other byte and the registers are kept. -/
def Obligations.RegisterDumpStoresTheRange : Prop :=
  ∀ (x : Reg) (s : State), s.i.toNat + x.val ≤ 4095 → ∃ t, exec (.dump x) s = .next t ∧
    (∀ k : Reg, k ≤ x → t.byteAt (s.i.toNat + k.val) = s.reg k) ∧
    (∀ a, (a < s.i.toNat ∨ s.i.toNat + x.val + 1 ≤ a) → t.byteAt a = s.byteAt a) ∧
    t.i.toNat = s.i.toNat + x.val + 1 ∧ t = { s with mem := t.mem, i := t.i, pc := s.pc + 2 }

/-- 43_memory_transfer.md Register load inside memory (D7, log 6): V0..VX from I upward, I past them; registers above VX and memory are kept. -/
def Obligations.RegisterLoadReadsTheRange : Prop :=
  ∀ (x : Reg) (s : State), s.i.toNat + x.val ≤ 4095 → ∃ t, exec (.load x) s = .next t ∧
    (∀ k : Reg, k ≤ x → t.reg k = s.byteAt (s.i.toNat + k.val)) ∧ (∀ r : Reg, x < r → t.reg r = s.reg r) ∧
    t.i.toNat = s.i.toNat + x.val + 1 ∧ t = { s with v := t.v, i := t.i, pc := s.pc + 2 }

/-- The source property of 43_memory_transfer.md Register load (95_test_vectors.md S8), for every X: a dump, then a load from the same place into a
zeroed register file, restores V0..VX, and I advances alike both times. -/
def Obligations.DumpThenLoadRestoresRegisters : Prop :=
  ∀ (x : Reg) (s : State), s.i.toNat + x.val ≤ 4095 → ∃ t u, exec (.dump x) s = .next t ∧
    exec (.load x) { t with i := s.i, v := Vector.replicate 16 0 } = .next u ∧
    (∀ k : Reg, k ≤ x → u.reg k = s.reg k) ∧ (∀ k : Reg, x < k → u.reg k = 0) ∧
    t.i = s.i + BitVec.ofNat 16 (x.val + 1) ∧ u.i = t.i

/-- 43_memory_transfer.md Effective addresses and 44_graphics.md DRW with OOB_POLICY = fault, the spec's decisions D7 and D8 (logs 6, 11): a transfer that
would pass address 4095 changes nothing but the fault record, which holds the lowest out-of-range address. -/
def Obligations.TransfersBeyondMemoryFault : Prop :=
  ∀ (i : Instr) (count : Nat) (s : State),
    ((∃ x, i = .ldB x ∧ count = 3) ∨ (∃ x, (i = .dump x ∨ i = .load x) ∧ count = x.val + 1) ∨
      (∃ x y n, i = .drw x y n ∧ count = n.toNat)) →
    0 < count → 4096 < s.i.toNat + count →
    exec i s = .next { s with fault := some { cause := .dataOutOfRange, atPc := s.pc, opcode := encode i, info := max s.i.toNat 4096 } }

/-- 20_memory.md Instruction-fetch coherence: two bytes a dump stores at the address of the next instruction are the next instruction. -/
def Obligations.StoredWordIsTheNextInstruction : Prop :=
  ∀ (x k l : Reg) (s : State) (j : Instr), Running s → s.i.toNat + x.val ≤ 4095 → l.val = k.val + 1 → l ≤ x →
    (s.pc + 2).toNat = s.i.toNat + k.val → decode (wordOfBytes (s.reg k) (s.reg l)) = .ok j →
    ∃ t, exec (.dump x) s = .next t ∧ step t = exec j t

/-! ### Graphics -/

/-- R150. -/
def Obligations.ClearDisplayZeroesEveryRow : Prop :=
  ∀ s : State, ∃ t, exec .cls s = .next t ∧ (∀ r : Fin 32, t.fb[r] = 0) ∧ t = { s with fb := t.fb, pc := s.pc + 2 }

/-- 44_graphics.md Draw sprite, mask and coordinates, pixel by pixel; origins sampled first (D10, log 10), columns of 64 and more clipped away (D11,
log 9), the range test (D7, log 6). A pixel is toggled exactly where the sprite lights it, VF tells whether one of those was lit. -/
def Obligations.DrawTogglesTheSpritePixels : Prop :=
  ∀ (x y : Reg) (n : BitVec 4) (s : State), DataInRange s n.toNat → ∃ t, exec (.drw x y n) s = .next t ∧
    (∀ (r : Fin 32) (c : Fin 64), pixel t.fb r c = (pixel s.fb r c ^^ spritePixel s x y n r c)) ∧
    (t.reg vf = 0 ∨ t.reg vf = 1) ∧
    (t.reg vf = 1 ↔ ∃ (r : Fin 32) (c : Fin 64), pixel s.fb r c = true ∧ spritePixel s x y n r c = true) ∧
    (∀ r, r ≠ vf → t.reg r = s.reg r) ∧ t = { s with v := t.v, fb := t.fb, pc := s.pc + 2 }

/-- 44_graphics.md The row mask, its numeric form for origins inside the display; at 64 and beyond the mask is zero (D11, log 9). -/
def Obligations.RowMaskIsTheShiftedByte : Prop :=
  ∀ (b x : Byte), (x.toNat ≤ 63 → (rowMask b (originColumn config.drawXPolicy x)).toNat = b.toNat * 2 ^ 56 / 2 ^ x.toNat) ∧
    (64 ≤ x.toNat → rowMask b (originColumn config.drawXPolicy x) = 0)

/-- 44_graphics.md Draw sprite, corner case (g) (D7, D11; logs 6, 9): drawing the same sprite again at the same place restores the framebuffer. The
second VF is 1 exactly when the sprite lights a pixel on the screen that was off before the first draw: that is what the update of Draw sprite
gives, where (g) says so of any lit pixel (log 28). The second origin is read after VF was written, so it is assumed the same. -/
def Obligations.DrawingTwiceRestoresTheDisplay : Prop :=
  ∀ (x y : Reg) (n : BitVec 4) (s t : State), DataInRange s n.toNat → exec (.drw x y n) s = .next t →
    t.reg x = s.reg x → t.reg y = s.reg y → ∃ u, exec (.drw x y n) t = .next u ∧ u.fb = s.fb ∧
      (u.reg vf = 1 ↔ ∃ (r : Fin 32) (c : Fin 64), pixel s.fb r c = false ∧ spritePixel s x y n r c = true)

/-! ### Timers and keypad -/

/-- R160, R161, R162: transfers between a register and a timer; right after the third, sound exactly if ST is not 0. -/
def Obligations.TimerTransfersCopy : Prop :=
  ∀ (x : Reg) (s : State),
    (∃ t, exec (.ldVxDt x) s = .next t ∧ t.reg x = s.dt ∧ (∀ r, r ≠ x → t.reg r = s.reg r) ∧
      t = { s with v := t.v, pc := s.pc + 2 }) ∧
    (∃ t, exec (.ldDtVx x) s = .next t ∧ t.dt = s.reg x ∧ t = { s with dt := t.dt, pc := s.pc + 2 }) ∧
    (∃ t, exec (.ldStVx x) s = .next t ∧ t.st = s.reg x ∧ (soundActive t = true ↔ s.reg x ≠ 0) ∧
      t = { s with st := t.st, pc := s.pc + 2 })

/-- 45_timers_keypad.md Await key; that a key already held does not count is the spec's decision D28 (log 24): only `awaited` and pc change, whatever K holds,
and the next `Step` does nothing. -/
def Obligations.AwaitKeyOnlyRecordsTheRegister : Prop :=
  ∀ (x : Reg) (s : State), ∃ t, exec (.ldVxK x) s = .next t ∧ t.awaited = some x ∧
    t = { s with awaited := t.awaited, pc := s.pc + 2 } ∧ step t = .next t

/-- 45_timers_keypad.md Skip-if-key-pressed and -not-pressed: a register value up to 15 names the key that is tested; a larger one faults
under KEY_INDEX_POLICY = fault, the spec's decision D12 (log 7), and changes nothing but the record. -/
def Obligations.KeySkipsTestTheNamedKeyOrFault : Prop :=
  ∀ (x : Reg) (s : State),
    (∀ k : Key, (s.reg x).toNat = k.val →
      exec (.skp x) s = .next { s with pc := if s.keys[k] = true then s.pc + 4 else s.pc + 2 } ∧
      exec (.sknp x) s = .next { s with pc := if s.keys[k] = true then s.pc + 2 else s.pc + 4 }) ∧
    (15 < (s.reg x).toNat → ∀ i, (i = .skp x ∨ i = .sknp x) →
      exec i s = .next { s with fault := some { cause := .keyIndexOutOfRange, atPc := s.pc, opcode := encode i, info := (s.reg x).toNat } })

/-! ### The host's operations -/

/-- R178, for any number of ticks, in any state (awaiting or faulted too): each timer goes down by one a tick and stops at 0. -/
def Obligations.TicksCountBothTimersDownToZero : Prop :=
  ∀ (n : Nat) (s : State), ∃ t, performAll (List.replicate n .tickTimers) s = .next t ∧
    t.dt.toNat = s.dt.toNat - n ∧ t.st.toNat = s.st.toNat - n ∧ t = { s with dt := t.dt, st := t.st }

/-- 60_exceptions.md Keypad, `SetKey` (argument domain and repeated press: the spec's decision D19, log 21): the flag is recorded; a press during a wait
delivers the index and ends the wait, a release never does. -/
def Obligations.SetKeyRecordsAndDelivers : Prop :=
  ∀ (k : Key) (pressed : Bool) (s : State), ∃ t, perform (.setKey k pressed) s = .next t ∧
    (∀ j : Key, t.keys[j] = if j = k then pressed else s.keys[j]) ∧
    (∀ x, s.awaited = some x → pressed = true → t.awaited = none ∧ (t.reg x).toNat = k.val ∧
      (∀ r, r ≠ x → t.reg r = s.reg r) ∧ t = { s with keys := t.keys, v := t.v, awaited := t.awaited }) ∧
    (s.awaited = none ∨ pressed = false → t = { s with keys := t.keys })

/-- 10_state.md section 11, the columns of `Initialize` and `Restart` (D8, D14, D15, D16, D22; logs 3, 14, 15, 26): the registers, stack, display, timers and control state both
leave; the memory and keys of each. The counter of draws goes on (log 4). -/
def Obligations.ResetsLeaveTheTabledValues : Prop :=
  ∀ s : State, ∃ t u, perform .initializeCore s = .next t ∧ perform .restart s = .next u ∧
    (∀ a, t.byteAt a = if h : a < 80 then config.font[a / 5][a % 5]'(Nat.mod_lt _ (by decide)) else 0) ∧ (∀ k : Key, t.keys[k] = false) ∧
    u.mem = s.mem ∧ u.keys = s.keys ∧
    (∀ w, w = t ∨ w = u → (∀ r, w.reg r = 0) ∧ w.i = 0 ∧ w.pc.toNat = 512 ∧ (∀ k : Fin 16, w.stack[k] = 0) ∧ w.sp.val = 0 ∧
      w.dt = 0 ∧ w.st = 0 ∧ (∀ r : Fin 32, w.fb[r] = 0) ∧ w.awaited = none ∧ w.fault = none ∧ w.draws = s.draws)

/-- 70_reset_and_hazards.md `ClearProgram`: the program region reads as zero, the first 512 bytes and all other state are kept; stepping there then
only advances pc, since the word 0x0000 is unmatched, the spec's decision D3 with D2 (log 2). -/
def Obligations.ClearProgramZeroesTheProgramRegion : Prop :=
  ∀ s : State, ∃ t, perform .clearProgram s = .next t ∧
    (∀ a, t.byteAt a = if 512 ≤ a then 0 else s.byteAt a) ∧ t = { s with mem := t.mem } ∧
    (Running t → FetchInRange t → 512 ≤ t.pc.toNat → step t = .next { t with pc := t.pc + 2 })

/-- 70_reset_and_hazards.md `FullReset`: it is `Restart` and then `ClearProgram`, and leaves the first 512 bytes as they are, and K too, the spec's
decision D16 (log 15). -/
def Obligations.FullResetIsRestartThenClear : Prop :=
  ∀ s : State, ∃ t, perform .fullReset s = .next t ∧ performAll [.restart, .clearProgram] s = .next t ∧
    (∀ a, t.byteAt a = if 512 ≤ a then 0 else s.byteAt a) ∧ t.keys = s.keys

/-- 70_reset_and_hazards.md `LoadProgram` and Boot (precondition and tail: the spec's decisions D20, D23, logs 21, 26; the reset pc: D15, log 14): an image that fits
lies verbatim from 512 up and nothing else changes; a longer one is refused; after the boot sequence the first `Step` runs its first two bytes. -/
def Obligations.LoadedProgramRunsFromItsFirstWord : Prop :=
  ∀ (bytes : List Byte) (s : State),
    (bytes.length ≤ 3584 → ∃ t, perform (.loadProgram bytes) s = .next t ∧
      (∀ k, (h : k < bytes.length) → t.byteAt (512 + k) = bytes[k]) ∧
      (∀ a, (a < 512 ∨ 512 + bytes.length ≤ a) → t.byteAt a = s.byteAt a) ∧ t = { s with mem := t.mem }) ∧
    (3584 < bytes.length → perform (.loadProgram bytes) s = .refused .programTooLong) ∧
    (∀ (hi lo : Byte) (rest : List Byte) (i : Instr), bytes = hi :: lo :: rest → bytes.length ≤ 3584 →
      decode (wordOfBytes hi lo) = .ok i → ∃ t, boot bytes s = .next t ∧ t.pc.toNat = 512 ∧ step t = exec i t)
end

