-- ==== Sys2Proof/Laws/Decode.lean ====
section
/-! SUPPORT. The fields of an encoded word are the operands it was made of, and a word is made of its fields. -/

namespace Sys2Proof

@[simp] theorem regOfField_fieldOfReg (r : Reg) : regOfField (fieldOfReg r) = r := by
  apply Fin.ext
  simp [regOfField, fieldOfReg]

@[simp] theorem fieldOfReg_regOfField (f : BitVec 4) : fieldOfReg (regOfField f) = f := by
  apply BitVec.eq_of_toNat_eq
  simp [regOfField, fieldOfReg]

/-- The bits of a field at its place. -/
theorem getElem_at16 {n : Nat} (lo : Nat) (f : BitVec n) (k : Nat) (h : k < 16) :
    (at16 lo f)[k] = (!decide (k < lo) && f.getLsbD (k - lo)) := by
  simp [at16]

/-- Two words that agree on their 16 bits are equal. -/
theorem word_ext {v w : Word} (h : ∀ k < 16, v.getLsbD k = w.getLsbD k) : v = w := BitVec.eq_of_getLsbD_eq h

theorem fields_encodeA (op : BitVec 4) (nnn : BitVec 12) :
    fieldOp (encodeA op nnn) = op ∧ fieldNNN (encodeA op nnn) = nnn := by
  constructor <;> apply BitVec.eq_of_getLsbD_eq <;> intro k hk <;> interval_cases k <;>
    simp [fieldOp, fieldNNN, encodeA, getElem_at16]

theorem fields_encodeXI (op : BitVec 4) (x : Reg) (nn : Byte) :
    fieldOp (encodeXI op x nn) = op ∧ fieldX (encodeXI op x nn) = x ∧ fieldNN (encodeXI op x nn) = nn := by
  have hx : (encodeXI op x nn).extractLsb' 8 4 = fieldOfReg x := by
    apply BitVec.eq_of_getLsbD_eq
    intro k hk
    interval_cases k <;> simp [encodeXI, getElem_at16]
  refine ⟨?_, by rw [fieldX, hx, regOfField_fieldOfReg], ?_⟩ <;> apply BitVec.eq_of_getLsbD_eq <;> intro k hk <;>
    interval_cases k <;> simp [fieldOp, fieldNN, encodeXI, getElem_at16]

theorem fields_encodeXYN (op : BitVec 4) (x y : Reg) (n : BitVec 4) :
    fieldOp (encodeXYN op x y n) = op ∧ fieldX (encodeXYN op x y n) = x ∧ fieldY (encodeXYN op x y n) = y ∧
      fieldN (encodeXYN op x y n) = n := by
  have hx : (encodeXYN op x y n).extractLsb' 8 4 = fieldOfReg x := by
    apply BitVec.eq_of_getLsbD_eq
    intro k hk
    interval_cases k <;> simp [encodeXYN, getElem_at16]
  have hy : (encodeXYN op x y n).extractLsb' 4 4 = fieldOfReg y := by
    apply BitVec.eq_of_getLsbD_eq
    intro k hk
    interval_cases k <;> simp [encodeXYN, getElem_at16]
  refine ⟨?_, by rw [fieldX, hx, regOfField_fieldOfReg], by rw [fieldY, hy, regOfField_fieldOfReg], ?_⟩ <;>
    apply BitVec.eq_of_getLsbD_eq <;> intro k hk <;> interval_cases k <;>
    simp [fieldOp, fieldN, encodeXYN, getElem_at16]

/-- Format A loses no bit. -/
theorem encodeA_fields (w : Word) : encodeA (fieldOp w) (fieldNNN w) = w := by
  apply word_ext
  intro k hk
  interval_cases k <;> simp [encodeA, fieldOp, fieldNNN, getElem_at16]

/-- Formats XI and XF lose no bit. -/
theorem encodeXI_fields (w : Word) : encodeXI (fieldOp w) (fieldX w) (fieldNN w) = w := by
  apply word_ext
  intro k hk
  interval_cases k <;> simp [encodeXI, fieldOp, fieldX, fieldNN, getElem_at16]

/-- Formats XY and XYN lose no bit. -/
theorem encodeXYN_fields (w : Word) : encodeXYN (fieldOp w) (fieldX w) (fieldY w) (fieldN w) = w := by
  apply word_ext
  intro k hk
  interval_cases k <;> simp [encodeXYN, fieldOp, fieldX, fieldY, fieldN, getElem_at16]

/-- A word is the two bytes it lies in memory as (20_memory.md R54). -/
@[simp] theorem wordOfBytes_bytes (w : Word) : wordOfBytes (highByte w) (lowByte w) = w := by
  apply word_ext
  intro k hk
  interval_cases k <;> simp [wordOfBytes, highByte, lowByte, getElem_at16]

/-- The high byte of two bytes in memory is the first. -/
@[simp] theorem highByte_wordOfBytes (hi lo : Byte) : highByte (wordOfBytes hi lo) = hi := by
  apply BitVec.eq_of_getLsbD_eq
  intro k hk
  interval_cases k <;> simp [wordOfBytes, highByte, getElem_at16]

/-- The low byte of two bytes in memory is the second. -/
@[simp] theorem lowByte_wordOfBytes (hi lo : Byte) : lowByte (wordOfBytes hi lo) = lo := by
  apply BitVec.eq_of_getLsbD_eq
  intro k hk
  interval_cases k <;> simp [wordOfBytes, lowByte, getElem_at16]

end Sys2Proof
end

