-- ==== Sys2Proof/Laws/Memory.lean ====
section
/-! SUPPORT. The laws of memory: a read after a write, and that every operation keeps the canonical form. The reading laws hold
for every list of cells; only the canonical form needs the canonical form. Each law holds under every choice of the
parameters (`...With`); the same name without `With` is the law of the machine. -/

namespace Sys2Proof.Machine

variable {f : Font}

theorem initialByte_high {a : Nat} (h : 80 ≤ a) : initialByte f a = 0 := dif_neg (by omega)

/-! ### Reads -/

theorem Memory.readWith_without (m : Memory) (a b : Nat) :
    Memory.readWith f (m.without a) b = if b = a then initialByte f a else Memory.readWith f m b := by
  induction m with
  | nil => simp +contextual [Memory.without, Memory.readWith]
  | cons c m ih =>
    obtain ⟨k, u⟩ := c
    simp only [Memory.without] at ih
    by_cases hk : k = a
    · subst hk
      by_cases hb : b = k
      · subst hb; simpa [Memory.without, Memory.readWith] using ih
      · simp [Memory.without, Memory.readWith, ih, hb]
    · by_cases hb : b = k
      · subst hb; simp [Memory.without, Memory.readWith, hk]
      · simp [Memory.without, Memory.readWith, hk, hb, ih]

theorem Memory.readWith_insertCell (m : Memory) (a : Nat) (w : Byte) (h : ∀ c ∈ m, c.1 ≠ a) (b : Nat) :
    Memory.readWith f (m.insertCell a w) b = if b = a then w else Memory.readWith f m b := by
  induction m with
  | nil => simp [Memory.insertCell, Memory.readWith]
  | cons c m ih =>
    obtain ⟨k, u⟩ := c
    have hk : k ≠ a := h (k, u) (by simp)
    have ih' := ih fun c hc => h c (by simp [hc])
    unfold Memory.insertCell
    split
    · simp [Memory.readWith]
    · by_cases hb : b = k
      · subst hb; simp [Memory.readWith, hk]
      · simp [Memory.readWith, hb, ih']

theorem Memory.without_ne (m : Memory) (a : Nat) : ∀ c ∈ m.without a, c.1 ≠ a := by
  intro c hc
  simpa [Memory.without] using (List.mem_filter.mp hc).2

/-- A read after a write (20_memory.md R58 (c)). -/
theorem Memory.readWith_write (m : Memory) (a : Nat) (w : Byte) (b : Nat) :
    Memory.readWith f (Memory.writeWith f m a w) b = if b = a then w else Memory.readWith f m b := by
  unfold Memory.writeWith
  split
  · rename_i h
    rw [Memory.readWith_without, h]
  · rw [Memory.readWith_insertCell _ _ _ (m.without_ne a), Memory.readWith_without]
    by_cases hb : b = a <;> simp [hb]

@[simp] theorem Memory.read_write (m : Memory) (a : Nat) (w : Byte) (b : Nat) :
    (m.write a w).read b = if b = a then w else m.read b := Memory.readWith_write m a w b

/-- What a run of consecutive stores leaves at an address, under every choice that faults outside memory. -/
theorem Memory.readWith_store {c : Config} (hc : c.oobPolicy = .fault) (m : Memory) (a : Nat) (ws : List Byte) (b : Nat) :
    Memory.readWith c.font (Memory.store c m a ws) b = if h : a ≤ b ∧ b < a + ws.length then ws[b - a] else Memory.readWith c.font m b := by
  induction ws generalizing m a with
  | nil => simp only [Memory.store]; rw [dif_neg]; simp
  | cons w ws ih =>
    simp only [Memory.store, ih, Memory.readWith_write, hc, physical, List.length_cons]
    by_cases hab : b = a
    · subst hab; simp
    · by_cases hin : a + 1 ≤ b ∧ b < a + 1 + ws.length
      · have hsub : b - a = (b - (a + 1)) + 1 := by omega
        have hin' : a ≤ b ∧ b < a + (ws.length + 1) := by omega
        simp only [hin, hin', and_self, dite_true, hsub, List.getElem_cons_succ]
      · have hin' : ¬(a ≤ b ∧ b < a + (ws.length + 1)) := by omega
        rw [dif_neg hin, dif_neg hin', if_neg hab]

/-- A stored byte is read back. -/
theorem Memory.read_store_at (m : Memory) (a : Nat) (ws : List Byte) (k : Nat) (h : k < ws.length) :
    (Memory.store config m a ws).read (a + k) = ws[k] := by
  rw [Memory.read, Memory.readWith_store rfl, dif_pos ⟨by omega, by omega⟩]
  simp

/-- Every address outside the stored bytes reads as before. -/
theorem Memory.read_store_outside (m : Memory) (a : Nat) (ws : List Byte) (b : Nat)
    (h : b < a ∨ a + ws.length ≤ b) : (Memory.store config m a ws).read b = m.read b := by
  rw [Memory.read, Memory.readWith_store rfl, dif_neg (by omega)]

/-- What clearing the program region leaves at an address (70_reset_and_hazards.md R192). -/
theorem Memory.readWith_clearProgram (m : Memory) (b : Nat) :
    Memory.readWith f m.clearProgram b = if progBase ≤ b then 0 else Memory.readWith f m b := by
  induction m with
  | nil =>
    simp only [Memory.clearProgram, List.filter_nil, Memory.readWith]
    split
    · rename_i h; exact initialByte_high (by unfold progBase at h; omega)
    · rfl
  | cons c m ih =>
    obtain ⟨k, u⟩ := c
    simp only [Memory.clearProgram] at ih ⊢
    by_cases hk : k < progBase
    · by_cases hb : b = k
      · subst hb; simp [Memory.readWith, hk]
      · simp [Memory.readWith, hk, hb, ih]
    · by_cases hb : b = k
      · subst hb; simp [hk, ih, Nat.le_of_not_lt hk]
      · simp [Memory.readWith, hk, hb, ih]

theorem Memory.read_clearProgram (m : Memory) (b : Nat) :
    m.clearProgram.read b = if progBase ≤ b then 0 else m.read b := Memory.readWith_clearProgram m b

/-! ### The canonical form -/

theorem Memory.wfWith_iff (m : Memory) :
    m.wfWith f = true ↔ (m.Pairwise fun c d => c.1 < d.1) ∧ ∀ c ∈ m, c.1 < memSize ∧ c.2 ≠ initialByte f c.1 := by
  simp [Memory.wfWith]

theorem Memory.wf_iff (m : Memory) :
    m.wf = true ↔ (m.Pairwise fun c d => c.1 < d.1) ∧ ∀ c ∈ m, c.1 < memSize ∧ c.2 ≠ initialByte config.font c.1 :=
  m.wfWith_iff

theorem Memory.wfWith_nil : Memory.wfWith f [] = true := rfl

theorem Memory.wfWith_filter {m : Memory} (p : Host.Cell → Bool) (h : m.wfWith f = true) :
    Memory.wfWith f (m.filter p) = true := by
  rw [Memory.wfWith_iff] at h ⊢
  exact ⟨h.1.sublist List.filter_sublist, fun c hc => h.2 c (List.mem_filter.mp hc).1⟩

theorem Memory.mem_insertCell {m : Memory} {a : Nat} {w : Byte} {c : Host.Cell} (h : c ∈ m.insertCell a w) :
    c = (a, w) ∨ c ∈ m := by
  induction m with
  | nil => simpa [Memory.insertCell] using h
  | cons d m ih =>
    unfold Memory.insertCell at h
    split at h
    · simpa using h
    · rcases List.mem_cons.mp h with h | h
      · exact Or.inr (by simp [h])
      · rcases ih h with h | h
        · exact Or.inl h
        · exact Or.inr (by simp [h])

theorem Memory.insertCell_sorted {m : Memory} {a : Nat} {w : Byte} (hs : m.Pairwise fun c d => c.1 < d.1)
    (hne : ∀ c ∈ m, c.1 ≠ a) : (m.insertCell a w).Pairwise fun c d => c.1 < d.1 := by
  induction m with
  | nil => simp [Memory.insertCell]
  | cons d m ih =>
    rw [List.pairwise_cons] at hs
    unfold Memory.insertCell
    split
    · rename_i hlt
      refine List.pairwise_cons.mpr ⟨?_, List.pairwise_cons.mpr hs⟩
      intro c hc
      rcases List.mem_cons.mp hc with rfl | hc
      · exact hlt
      · exact Nat.lt_trans hlt (hs.1 c hc)
    · rename_i hge
      refine List.pairwise_cons.mpr ⟨?_, ih hs.2 fun c hc => hne c (by simp [hc])⟩
      intro c hc
      rcases Memory.mem_insertCell hc with rfl | hc
      · exact Nat.lt_of_le_of_ne (Nat.le_of_not_lt hge) (hne d (by simp))
      · exact hs.1 c hc

/-- A store inside memory keeps the canonical form. -/
theorem Memory.wfWith_write {m : Memory} {a : Nat} (w : Byte) (h : m.wfWith f = true) (ha : a < memSize) :
    (m.writeWith f a w).wfWith f = true := by
  unfold Memory.writeWith
  split
  · exact Memory.wfWith_filter _ h
  · rename_i hw
    have h' := (Memory.wfWith_iff _).mp (Memory.wfWith_filter (fun c => c.1 != a) h)
    refine (Memory.wfWith_iff _).mpr ⟨Memory.insertCell_sorted h'.1 (m.without_ne a), fun c hc => ?_⟩
    rcases Memory.mem_insertCell hc with rfl | hc
    · exact ⟨ha, hw⟩
    · exact h'.2 c hc

/-- A run of stores keeps the canonical form: where addresses wrap, always; where they fault, inside memory. -/
theorem Memory.wfWith_store {c : Config} {m : Memory} {a : Nat} (ws : List Byte) (h : m.wfWith c.font = true)
    (ha : c.oobPolicy = .fault → a + ws.length ≤ memSize) : (m.store c a ws).wfWith c.font = true := by
  induction ws generalizing m a with
  | nil => exact h
  | cons w ws ih =>
    rw [List.length_cons] at ha
    refine ih (Memory.wfWith_write w h ?_) fun hc => by have := ha hc; omega
    cases hc : c.oobPolicy with
    | fault => have := ha hc; simp only [physical]; omega
    | wrap4096 => exact Nat.mod_lt _ (by decide)

theorem Memory.wf_store {m : Memory} {a : Nat} (ws : List Byte) (h : m.wf = true) (ha : a + ws.length ≤ memSize) :
    (m.store config a ws).wf = true := Memory.wfWith_store ws h fun _ => ha

/-- Clearing the program region keeps the canonical form. -/
theorem Memory.wfWith_clearProgram {m : Memory} (h : m.wfWith f = true) : m.clearProgram.wfWith f = true :=
  Memory.wfWith_filter _ h

theorem Memory.wf_clearProgram {m : Memory} (h : m.wf = true) : m.clearProgram.wf = true := Memory.wfWith_clearProgram h

/-- Memory after reset is canonical. -/
theorem State.reset_mem_wf : State.reset.mem.wf = true := rfl

end Sys2Proof.Machine
end

