-- ==== Sys2Proof/Laws/State.lean ====
section
/-! SUPPORT. One lemma per field per named update of the state, each true by `rfl`, so that no proof unfolds a record update;
and what a register reads as after one is written. -/

namespace Sys2Proof.Machine

variable (s : State)

@[simp] theorem State.setReg_v (x : Reg) (b : Byte) : (s.setReg x b).v = s.v.set x b := rfl
@[simp] theorem State.setReg_i (x : Reg) (b : Byte) : (s.setReg x b).i = s.i := rfl
@[simp] theorem State.setReg_pc (x : Reg) (b : Byte) : (s.setReg x b).pc = s.pc := rfl
@[simp] theorem State.setReg_stack (x : Reg) (b : Byte) : (s.setReg x b).stack = s.stack := rfl
@[simp] theorem State.setReg_sp (x : Reg) (b : Byte) : (s.setReg x b).sp = s.sp := rfl
@[simp] theorem State.setReg_mem (x : Reg) (b : Byte) : (s.setReg x b).mem = s.mem := rfl
@[simp] theorem State.setReg_dt (x : Reg) (b : Byte) : (s.setReg x b).dt = s.dt := rfl
@[simp] theorem State.setReg_st (x : Reg) (b : Byte) : (s.setReg x b).st = s.st := rfl
@[simp] theorem State.setReg_fb (x : Reg) (b : Byte) : (s.setReg x b).fb = s.fb := rfl
@[simp] theorem State.setReg_keys (x : Reg) (b : Byte) : (s.setReg x b).keys = s.keys := rfl
@[simp] theorem State.setReg_awaited (x : Reg) (b : Byte) : (s.setReg x b).awaited = s.awaited := rfl
@[simp] theorem State.setReg_fault (x : Reg) (b : Byte) : (s.setReg x b).fault = s.fault := rfl
@[simp] theorem State.setReg_draws (x : Reg) (b : Byte) : (s.setReg x b).draws = s.draws := rfl

@[simp] theorem State.setRegs_v (v : Vector Byte 16) : (s.setRegs v).v = v := rfl
@[simp] theorem State.setRegs_i (v : Vector Byte 16) : (s.setRegs v).i = s.i := rfl
@[simp] theorem State.setRegs_pc (v : Vector Byte 16) : (s.setRegs v).pc = s.pc := rfl
@[simp] theorem State.setRegs_stack (v : Vector Byte 16) : (s.setRegs v).stack = s.stack := rfl
@[simp] theorem State.setRegs_sp (v : Vector Byte 16) : (s.setRegs v).sp = s.sp := rfl
@[simp] theorem State.setRegs_mem (v : Vector Byte 16) : (s.setRegs v).mem = s.mem := rfl
@[simp] theorem State.setRegs_dt (v : Vector Byte 16) : (s.setRegs v).dt = s.dt := rfl
@[simp] theorem State.setRegs_st (v : Vector Byte 16) : (s.setRegs v).st = s.st := rfl
@[simp] theorem State.setRegs_fb (v : Vector Byte 16) : (s.setRegs v).fb = s.fb := rfl
@[simp] theorem State.setRegs_keys (v : Vector Byte 16) : (s.setRegs v).keys = s.keys := rfl
@[simp] theorem State.setRegs_awaited (v : Vector Byte 16) : (s.setRegs v).awaited = s.awaited := rfl
@[simp] theorem State.setRegs_fault (v : Vector Byte 16) : (s.setRegs v).fault = s.fault := rfl
@[simp] theorem State.setRegs_draws (v : Vector Byte 16) : (s.setRegs v).draws = s.draws := rfl

@[simp] theorem State.setI_v (w : Word) : (s.setI w).v = s.v := rfl
@[simp] theorem State.setI_i (w : Word) : (s.setI w).i = w := rfl
@[simp] theorem State.setI_pc (w : Word) : (s.setI w).pc = s.pc := rfl
@[simp] theorem State.setI_stack (w : Word) : (s.setI w).stack = s.stack := rfl
@[simp] theorem State.setI_sp (w : Word) : (s.setI w).sp = s.sp := rfl
@[simp] theorem State.setI_mem (w : Word) : (s.setI w).mem = s.mem := rfl
@[simp] theorem State.setI_dt (w : Word) : (s.setI w).dt = s.dt := rfl
@[simp] theorem State.setI_st (w : Word) : (s.setI w).st = s.st := rfl
@[simp] theorem State.setI_fb (w : Word) : (s.setI w).fb = s.fb := rfl
@[simp] theorem State.setI_keys (w : Word) : (s.setI w).keys = s.keys := rfl
@[simp] theorem State.setI_awaited (w : Word) : (s.setI w).awaited = s.awaited := rfl
@[simp] theorem State.setI_fault (w : Word) : (s.setI w).fault = s.fault := rfl
@[simp] theorem State.setI_draws (w : Word) : (s.setI w).draws = s.draws := rfl

@[simp] theorem State.setPc_v (w : Word) : (s.setPc w).v = s.v := rfl
@[simp] theorem State.setPc_i (w : Word) : (s.setPc w).i = s.i := rfl
@[simp] theorem State.setPc_pc (w : Word) : (s.setPc w).pc = w := rfl
@[simp] theorem State.setPc_stack (w : Word) : (s.setPc w).stack = s.stack := rfl
@[simp] theorem State.setPc_sp (w : Word) : (s.setPc w).sp = s.sp := rfl
@[simp] theorem State.setPc_mem (w : Word) : (s.setPc w).mem = s.mem := rfl
@[simp] theorem State.setPc_dt (w : Word) : (s.setPc w).dt = s.dt := rfl
@[simp] theorem State.setPc_st (w : Word) : (s.setPc w).st = s.st := rfl
@[simp] theorem State.setPc_fb (w : Word) : (s.setPc w).fb = s.fb := rfl
@[simp] theorem State.setPc_keys (w : Word) : (s.setPc w).keys = s.keys := rfl
@[simp] theorem State.setPc_awaited (w : Word) : (s.setPc w).awaited = s.awaited := rfl
@[simp] theorem State.setPc_fault (w : Word) : (s.setPc w).fault = s.fault := rfl
@[simp] theorem State.setPc_draws (w : Word) : (s.setPc w).draws = s.draws := rfl

@[simp] theorem State.setStack_v (k : Vector Word 16) (n : Fin 17) : (s.setStack k n).v = s.v := rfl
@[simp] theorem State.setStack_i (k : Vector Word 16) (n : Fin 17) : (s.setStack k n).i = s.i := rfl
@[simp] theorem State.setStack_pc (k : Vector Word 16) (n : Fin 17) : (s.setStack k n).pc = s.pc := rfl
@[simp] theorem State.setStack_stack (k : Vector Word 16) (n : Fin 17) : (s.setStack k n).stack = k := rfl
@[simp] theorem State.setStack_sp (k : Vector Word 16) (n : Fin 17) : (s.setStack k n).sp = n := rfl
@[simp] theorem State.setStack_mem (k : Vector Word 16) (n : Fin 17) : (s.setStack k n).mem = s.mem := rfl
@[simp] theorem State.setStack_dt (k : Vector Word 16) (n : Fin 17) : (s.setStack k n).dt = s.dt := rfl
@[simp] theorem State.setStack_st (k : Vector Word 16) (n : Fin 17) : (s.setStack k n).st = s.st := rfl
@[simp] theorem State.setStack_fb (k : Vector Word 16) (n : Fin 17) : (s.setStack k n).fb = s.fb := rfl
@[simp] theorem State.setStack_keys (k : Vector Word 16) (n : Fin 17) : (s.setStack k n).keys = s.keys := rfl
@[simp] theorem State.setStack_awaited (k : Vector Word 16) (n : Fin 17) : (s.setStack k n).awaited = s.awaited := rfl
@[simp] theorem State.setStack_fault (k : Vector Word 16) (n : Fin 17) : (s.setStack k n).fault = s.fault := rfl
@[simp] theorem State.setStack_draws (k : Vector Word 16) (n : Fin 17) : (s.setStack k n).draws = s.draws := rfl

@[simp] theorem State.setMem_v (m : Memory) : (s.setMem m).v = s.v := rfl
@[simp] theorem State.setMem_i (m : Memory) : (s.setMem m).i = s.i := rfl
@[simp] theorem State.setMem_pc (m : Memory) : (s.setMem m).pc = s.pc := rfl
@[simp] theorem State.setMem_stack (m : Memory) : (s.setMem m).stack = s.stack := rfl
@[simp] theorem State.setMem_sp (m : Memory) : (s.setMem m).sp = s.sp := rfl
@[simp] theorem State.setMem_mem (m : Memory) : (s.setMem m).mem = m := rfl
@[simp] theorem State.setMem_dt (m : Memory) : (s.setMem m).dt = s.dt := rfl
@[simp] theorem State.setMem_st (m : Memory) : (s.setMem m).st = s.st := rfl
@[simp] theorem State.setMem_fb (m : Memory) : (s.setMem m).fb = s.fb := rfl
@[simp] theorem State.setMem_keys (m : Memory) : (s.setMem m).keys = s.keys := rfl
@[simp] theorem State.setMem_awaited (m : Memory) : (s.setMem m).awaited = s.awaited := rfl
@[simp] theorem State.setMem_fault (m : Memory) : (s.setMem m).fault = s.fault := rfl
@[simp] theorem State.setMem_draws (m : Memory) : (s.setMem m).draws = s.draws := rfl

@[simp] theorem State.setDt_v (b : Byte) : (s.setDt b).v = s.v := rfl
@[simp] theorem State.setDt_i (b : Byte) : (s.setDt b).i = s.i := rfl
@[simp] theorem State.setDt_pc (b : Byte) : (s.setDt b).pc = s.pc := rfl
@[simp] theorem State.setDt_stack (b : Byte) : (s.setDt b).stack = s.stack := rfl
@[simp] theorem State.setDt_sp (b : Byte) : (s.setDt b).sp = s.sp := rfl
@[simp] theorem State.setDt_mem (b : Byte) : (s.setDt b).mem = s.mem := rfl
@[simp] theorem State.setDt_dt (b : Byte) : (s.setDt b).dt = b := rfl
@[simp] theorem State.setDt_st (b : Byte) : (s.setDt b).st = s.st := rfl
@[simp] theorem State.setDt_fb (b : Byte) : (s.setDt b).fb = s.fb := rfl
@[simp] theorem State.setDt_keys (b : Byte) : (s.setDt b).keys = s.keys := rfl
@[simp] theorem State.setDt_awaited (b : Byte) : (s.setDt b).awaited = s.awaited := rfl
@[simp] theorem State.setDt_fault (b : Byte) : (s.setDt b).fault = s.fault := rfl
@[simp] theorem State.setDt_draws (b : Byte) : (s.setDt b).draws = s.draws := rfl

@[simp] theorem State.setSt_v (b : Byte) : (s.setSt b).v = s.v := rfl
@[simp] theorem State.setSt_i (b : Byte) : (s.setSt b).i = s.i := rfl
@[simp] theorem State.setSt_pc (b : Byte) : (s.setSt b).pc = s.pc := rfl
@[simp] theorem State.setSt_stack (b : Byte) : (s.setSt b).stack = s.stack := rfl
@[simp] theorem State.setSt_sp (b : Byte) : (s.setSt b).sp = s.sp := rfl
@[simp] theorem State.setSt_mem (b : Byte) : (s.setSt b).mem = s.mem := rfl
@[simp] theorem State.setSt_dt (b : Byte) : (s.setSt b).dt = s.dt := rfl
@[simp] theorem State.setSt_st (b : Byte) : (s.setSt b).st = b := rfl
@[simp] theorem State.setSt_fb (b : Byte) : (s.setSt b).fb = s.fb := rfl
@[simp] theorem State.setSt_keys (b : Byte) : (s.setSt b).keys = s.keys := rfl
@[simp] theorem State.setSt_awaited (b : Byte) : (s.setSt b).awaited = s.awaited := rfl
@[simp] theorem State.setSt_fault (b : Byte) : (s.setSt b).fault = s.fault := rfl
@[simp] theorem State.setSt_draws (b : Byte) : (s.setSt b).draws = s.draws := rfl

@[simp] theorem State.setFb_v (f : Vector Row 32) : (s.setFb f).v = s.v := rfl
@[simp] theorem State.setFb_i (f : Vector Row 32) : (s.setFb f).i = s.i := rfl
@[simp] theorem State.setFb_pc (f : Vector Row 32) : (s.setFb f).pc = s.pc := rfl
@[simp] theorem State.setFb_stack (f : Vector Row 32) : (s.setFb f).stack = s.stack := rfl
@[simp] theorem State.setFb_sp (f : Vector Row 32) : (s.setFb f).sp = s.sp := rfl
@[simp] theorem State.setFb_mem (f : Vector Row 32) : (s.setFb f).mem = s.mem := rfl
@[simp] theorem State.setFb_dt (f : Vector Row 32) : (s.setFb f).dt = s.dt := rfl
@[simp] theorem State.setFb_st (f : Vector Row 32) : (s.setFb f).st = s.st := rfl
@[simp] theorem State.setFb_fb (f : Vector Row 32) : (s.setFb f).fb = f := rfl
@[simp] theorem State.setFb_keys (f : Vector Row 32) : (s.setFb f).keys = s.keys := rfl
@[simp] theorem State.setFb_awaited (f : Vector Row 32) : (s.setFb f).awaited = s.awaited := rfl
@[simp] theorem State.setFb_fault (f : Vector Row 32) : (s.setFb f).fault = s.fault := rfl
@[simp] theorem State.setFb_draws (f : Vector Row 32) : (s.setFb f).draws = s.draws := rfl

@[simp] theorem State.setKeyFlag_v (k : Key) (b : Bool) : (s.setKeyFlag k b).v = s.v := rfl
@[simp] theorem State.setKeyFlag_i (k : Key) (b : Bool) : (s.setKeyFlag k b).i = s.i := rfl
@[simp] theorem State.setKeyFlag_pc (k : Key) (b : Bool) : (s.setKeyFlag k b).pc = s.pc := rfl
@[simp] theorem State.setKeyFlag_stack (k : Key) (b : Bool) : (s.setKeyFlag k b).stack = s.stack := rfl
@[simp] theorem State.setKeyFlag_sp (k : Key) (b : Bool) : (s.setKeyFlag k b).sp = s.sp := rfl
@[simp] theorem State.setKeyFlag_mem (k : Key) (b : Bool) : (s.setKeyFlag k b).mem = s.mem := rfl
@[simp] theorem State.setKeyFlag_dt (k : Key) (b : Bool) : (s.setKeyFlag k b).dt = s.dt := rfl
@[simp] theorem State.setKeyFlag_st (k : Key) (b : Bool) : (s.setKeyFlag k b).st = s.st := rfl
@[simp] theorem State.setKeyFlag_fb (k : Key) (b : Bool) : (s.setKeyFlag k b).fb = s.fb := rfl
@[simp] theorem State.setKeyFlag_keys (k : Key) (b : Bool) : (s.setKeyFlag k b).keys = s.keys.set k b := rfl
@[simp] theorem State.setKeyFlag_awaited (k : Key) (b : Bool) : (s.setKeyFlag k b).awaited = s.awaited := rfl
@[simp] theorem State.setKeyFlag_fault (k : Key) (b : Bool) : (s.setKeyFlag k b).fault = s.fault := rfl
@[simp] theorem State.setKeyFlag_draws (k : Key) (b : Bool) : (s.setKeyFlag k b).draws = s.draws := rfl

@[simp] theorem State.setAwaited_v (a : Option Reg) : (s.setAwaited a).v = s.v := rfl
@[simp] theorem State.setAwaited_i (a : Option Reg) : (s.setAwaited a).i = s.i := rfl
@[simp] theorem State.setAwaited_pc (a : Option Reg) : (s.setAwaited a).pc = s.pc := rfl
@[simp] theorem State.setAwaited_stack (a : Option Reg) : (s.setAwaited a).stack = s.stack := rfl
@[simp] theorem State.setAwaited_sp (a : Option Reg) : (s.setAwaited a).sp = s.sp := rfl
@[simp] theorem State.setAwaited_mem (a : Option Reg) : (s.setAwaited a).mem = s.mem := rfl
@[simp] theorem State.setAwaited_dt (a : Option Reg) : (s.setAwaited a).dt = s.dt := rfl
@[simp] theorem State.setAwaited_st (a : Option Reg) : (s.setAwaited a).st = s.st := rfl
@[simp] theorem State.setAwaited_fb (a : Option Reg) : (s.setAwaited a).fb = s.fb := rfl
@[simp] theorem State.setAwaited_keys (a : Option Reg) : (s.setAwaited a).keys = s.keys := rfl
@[simp] theorem State.setAwaited_awaited (a : Option Reg) : (s.setAwaited a).awaited = a := rfl
@[simp] theorem State.setAwaited_fault (a : Option Reg) : (s.setAwaited a).fault = s.fault := rfl
@[simp] theorem State.setAwaited_draws (a : Option Reg) : (s.setAwaited a).draws = s.draws := rfl

@[simp] theorem State.countDraw_v : (s.countDraw).v = s.v := rfl
@[simp] theorem State.countDraw_i : (s.countDraw).i = s.i := rfl
@[simp] theorem State.countDraw_pc : (s.countDraw).pc = s.pc := rfl
@[simp] theorem State.countDraw_stack : (s.countDraw).stack = s.stack := rfl
@[simp] theorem State.countDraw_sp : (s.countDraw).sp = s.sp := rfl
@[simp] theorem State.countDraw_mem : (s.countDraw).mem = s.mem := rfl
@[simp] theorem State.countDraw_dt : (s.countDraw).dt = s.dt := rfl
@[simp] theorem State.countDraw_st : (s.countDraw).st = s.st := rfl
@[simp] theorem State.countDraw_fb : (s.countDraw).fb = s.fb := rfl
@[simp] theorem State.countDraw_keys : (s.countDraw).keys = s.keys := rfl
@[simp] theorem State.countDraw_awaited : (s.countDraw).awaited = s.awaited := rfl
@[simp] theorem State.countDraw_fault : (s.countDraw).fault = s.fault := rfl
@[simp] theorem State.countDraw_draws : (s.countDraw).draws = s.draws + 1 := rfl

@[simp] theorem State.advance_v : (s.advance).v = s.v := rfl
@[simp] theorem State.advance_i : (s.advance).i = s.i := rfl
@[simp] theorem State.advance_pc : (s.advance).pc = s.pc + 2 := rfl
@[simp] theorem State.advance_stack : (s.advance).stack = s.stack := rfl
@[simp] theorem State.advance_sp : (s.advance).sp = s.sp := rfl
@[simp] theorem State.advance_mem : (s.advance).mem = s.mem := rfl
@[simp] theorem State.advance_dt : (s.advance).dt = s.dt := rfl
@[simp] theorem State.advance_st : (s.advance).st = s.st := rfl
@[simp] theorem State.advance_fb : (s.advance).fb = s.fb := rfl
@[simp] theorem State.advance_keys : (s.advance).keys = s.keys := rfl
@[simp] theorem State.advance_awaited : (s.advance).awaited = s.awaited := rfl
@[simp] theorem State.advance_fault : (s.advance).fault = s.fault := rfl
@[simp] theorem State.advance_draws : (s.advance).draws = s.draws := rfl

@[simp] theorem State.takeFault_v (t : Trap) (w : Word) : (s.takeFault t w).v = s.v := rfl
@[simp] theorem State.takeFault_i (t : Trap) (w : Word) : (s.takeFault t w).i = s.i := rfl
@[simp] theorem State.takeFault_pc (t : Trap) (w : Word) : (s.takeFault t w).pc = s.pc := rfl
@[simp] theorem State.takeFault_stack (t : Trap) (w : Word) : (s.takeFault t w).stack = s.stack := rfl
@[simp] theorem State.takeFault_sp (t : Trap) (w : Word) : (s.takeFault t w).sp = s.sp := rfl
@[simp] theorem State.takeFault_mem (t : Trap) (w : Word) : (s.takeFault t w).mem = s.mem := rfl
@[simp] theorem State.takeFault_dt (t : Trap) (w : Word) : (s.takeFault t w).dt = s.dt := rfl
@[simp] theorem State.takeFault_st (t : Trap) (w : Word) : (s.takeFault t w).st = s.st := rfl
@[simp] theorem State.takeFault_fb (t : Trap) (w : Word) : (s.takeFault t w).fb = s.fb := rfl
@[simp] theorem State.takeFault_keys (t : Trap) (w : Word) : (s.takeFault t w).keys = s.keys := rfl
@[simp] theorem State.takeFault_awaited (t : Trap) (w : Word) : (s.takeFault t w).awaited = s.awaited := rfl
@[simp] theorem State.takeFault_fault (t : Trap) (w : Word) : (s.takeFault t w).fault = some { cause := t.cause, atPc := s.pc, opcode := w, info := t.info } := rfl
@[simp] theorem State.takeFault_draws (t : Trap) (w : Word) : (s.takeFault t w).draws = s.draws := rfl

@[simp] theorem State.clearFault_v : (s.clearFault).v = s.v := rfl
@[simp] theorem State.clearFault_i : (s.clearFault).i = s.i := rfl
@[simp] theorem State.clearFault_pc : (s.clearFault).pc = s.pc := rfl
@[simp] theorem State.clearFault_stack : (s.clearFault).stack = s.stack := rfl
@[simp] theorem State.clearFault_sp : (s.clearFault).sp = s.sp := rfl
@[simp] theorem State.clearFault_mem : (s.clearFault).mem = s.mem := rfl
@[simp] theorem State.clearFault_dt : (s.clearFault).dt = s.dt := rfl
@[simp] theorem State.clearFault_st : (s.clearFault).st = s.st := rfl
@[simp] theorem State.clearFault_fb : (s.clearFault).fb = s.fb := rfl
@[simp] theorem State.clearFault_keys : (s.clearFault).keys = s.keys := rfl
@[simp] theorem State.clearFault_awaited : (s.clearFault).awaited = s.awaited := rfl
@[simp] theorem State.clearFault_fault : (s.clearFault).fault = none := rfl
@[simp] theorem State.clearFault_draws : (s.clearFault).draws = s.draws := rfl

/-- A register after one register is written. -/
@[simp] theorem State.reg_setReg (x r : Reg) (b : Byte) : (s.setReg x b).reg r = if r = x then b else s.reg r := by
  simp only [State.reg, State.setReg_v]
  by_cases h : r = x
  · subst h; simp
  · have h' : x.val ≠ r.val := fun e => h (Fin.ext e.symm)
    simp [h, h']

@[simp] theorem State.reg_setI (w : Word) (r : Reg) : (s.setI w).reg r = s.reg r := rfl
@[simp] theorem State.reg_setPc (w : Word) (r : Reg) : (s.setPc w).reg r = s.reg r := rfl
@[simp] theorem State.reg_setStack (k : Vector Word 16) (n : Fin 17) (r : Reg) : (s.setStack k n).reg r = s.reg r := rfl
@[simp] theorem State.reg_setMem (m : Memory) (r : Reg) : (s.setMem m).reg r = s.reg r := rfl
@[simp] theorem State.reg_setDt (b : Byte) (r : Reg) : (s.setDt b).reg r = s.reg r := rfl
@[simp] theorem State.reg_setSt (b : Byte) (r : Reg) : (s.setSt b).reg r = s.reg r := rfl
@[simp] theorem State.reg_setFb (f : Vector Row 32) (r : Reg) : (s.setFb f).reg r = s.reg r := rfl
@[simp] theorem State.reg_setKeyFlag (k : Key) (b : Bool) (r : Reg) : (s.setKeyFlag k b).reg r = s.reg r := rfl
@[simp] theorem State.reg_setAwaited (a : Option Reg) (r : Reg) : (s.setAwaited a).reg r = s.reg r := rfl
@[simp] theorem State.reg_countDraw (r : Reg) : (s.countDraw).reg r = s.reg r := rfl
@[simp] theorem State.reg_advance (r : Reg) : (s.advance).reg r = s.reg r := rfl
@[simp] theorem State.reg_takeFault (t : Trap) (w : Word) (r : Reg) : (s.takeFault t w).reg r = s.reg r := rfl
@[simp] theorem State.reg_clearFault (r : Reg) : (s.clearFault).reg r = s.reg r := rfl

/-- The whole register file read register by register. -/
theorem State.reg_eq (r : Reg) : s.reg r = s.v[r] := rfl

/-- Two register files that read alike are equal. -/
theorem regs_ext {v w : Vector Byte 16} (h : ∀ r : Reg, v[r] = w[r]) : v = w :=
  Vector.ext fun k hk => h ⟨k, hk⟩

end Sys2Proof.Machine
end

