-- ==== Sys2Proof/Laws/Ops.lean ====
section
/-! SUPPORT. One lemma per shared operation that says once everything it can do, at the machine's parameters. -/

namespace Sys2Proof.Machine

/-! ### The two ways an instruction ends -/

theorem retire_eq (s : State) (f : State → State) : retire s f = .next (f s.advance) := rfl

theorem attempt_ok {i : Instr} {s t : State} {f : State → Except Trap State} (h : f s.advance = .ok t) :
    attempt i s f = .next t := by simp only [attempt, h]

theorem attempt_error {i : Instr} {s : State} {e : Trap} {f : State → Except Trap State} (h : f s.advance = .error e) :
    attempt i s f = .next (s.takeFault e (encode i)) := by simp only [attempt, h]

/-- An instruction that can fault completes with its effect on the advanced state, or takes its fault in the state before. -/
theorem attempt_cases (i : Instr) (s : State) (f : State → Except Trap State) :
    (∃ t, f s.advance = .ok t ∧ attempt i s f = .next t) ∨
      ∃ e, f s.advance = .error e ∧ attempt i s f = .next (s.takeFault e (encode i)) := by
  cases h : f s.advance with
  | ok t => exact Or.inl ⟨t, rfl, attempt_ok h⟩
  | error e => exact Or.inr ⟨e, rfl, attempt_error h⟩

@[simp] theorem map_ok {α β : Type} (f : α → β) (a : α) :
    Except.map f (Except.ok a : Except Trap α) = .ok (f a) := rfl

@[simp] theorem map_error {α β : Type} (f : α → β) (e : Trap) :
    Except.map f (Except.error e : Except Trap α) = .error e := rfl

/-! ### Fetch and the stack -/

theorem config_oob : config.oobPolicy = .fault := rfl
theorem config_stack : config.stackPolicy = .fault := rfl
theorem config_key : config.keyIndexPolicy = .fault := rfl
theorem config_vf : config.vfOrder = .flagLast := rfl
theorem config_draw : config.drawXPolicy = .clipAll := rfl

@[simp] theorem physical_fault (a : Nat) : physical .fault a = a := rfl

@[simp] theorem load_config (m : Memory) (a : Nat) : m.load config a = m.read a := rfl

/-- The fetch gives the big-endian word at pc, or a fault with the lowest out-of-range address (40_step.md R92). -/
theorem fetch_spec (s : State) :
    fetch config s = if s.pc.toNat ≤ 4094 then .ok (wordOfBytes (s.byteAt s.pc.toNat) (s.byteAt (s.pc.toNat + 1)))
      else .error { cause := .fetchOutOfRange, info := max s.pc.toNat 4096 } := by
  by_cases h : s.pc.toNat ≤ 4094
  · rw [if_pos h, fetch, if_neg (by simp only [memSize]; omega)]
    rfl
  · rw [if_neg h, fetch, if_pos ⟨rfl, by simp only [memSize]; omega⟩]
    rfl

theorem push_ok {s : State} (w : Word) (h : s.sp.val < 16) :
    push .fault w s = .ok (s.setStack (s.stack.set s.sp.val w) ⟨s.sp.val + 1, by omega⟩) := by
  have hm : s.sp.val % 16 = s.sp.val := Nat.mod_eq_of_lt h
  rw [push, if_neg (by omega)]
  simp only [hm]

theorem push_full {s : State} (w : Word) (h : s.sp.val = 16) :
    push .fault w s = .error { cause := .stackOverflow, info := 16 } := if_pos ⟨rfl, h⟩

theorem popPc_ok {s : State} {k : Nat} (hk : k < 16) (h : s.sp.val = k + 1) :
    popPc .fault s = .ok ((s.setStack s.stack ⟨k, by omega⟩).setPc s.stack[k]) := by
  have hm : (s.sp.val + 15) % 16 = k := by omega
  rw [popPc, if_neg (by omega)]
  simp only [hm]

theorem popPc_empty {s : State} (h : s.sp.val = 0) :
    popPc .fault s = .error { cause := .stackUnderflow, info := 0 } := if_pos ⟨rfl, h⟩

/-- A skip moves pc by 2 or leaves the state alone. -/
theorem skipIf_eq (c : Bool) (s : State) : skipIf c s = s.setPc (if c then s.pc + 2 else s.pc) := by
  cases c <;> rfl

/-- An advance and a skip together: 4 or 2. -/
theorem skipIf_advance (c : Bool) (s : State) :
    skipIf c s.advance = { s with pc := if c then s.pc + 4 else s.pc + 2 } := by
  cases c
  · rfl
  · simp only [skipIf, if_true, State.advance, State.setPc, BitVec.add_assoc]
    rfl

/-! ### Operands -/

theorem checkData_ok {w : Word} {n : Nat} (h : n = 0 ∨ w.toNat + n ≤ 4096) : checkData .fault w n = .ok () :=
  if_neg (by simp only [memSize]; omega)

theorem checkData_error {w : Word} {n : Nat} (h0 : 0 < n) (h : 4096 < w.toNat + n) :
    checkData .fault w n = .error { cause := .dataOutOfRange, info := max w.toNat 4096 } :=
  if_pos ⟨rfl, h0, h⟩

theorem keyIndex_ok {p : KeyIndexPolicy} {b : Byte} {k : Key} (h : b.toNat = k.val) : keyIndex p b = .ok k := by
  have hb : b.toNat < 16 := h ▸ k.isLt
  unfold keyIndex
  rw [dif_pos hb]
  exact congrArg Except.ok (Fin.ext h)

theorem keyIndex_error {b : Byte} (h : 15 < b.toNat) :
    keyIndex .fault b = .error { cause := .keyIndexOutOfRange, info := b.toNat } := dif_neg (by omega)

theorem lowRegs_length (v : Vector Byte 16) (x : Reg) : (lowRegs v x).length = x.val + 1 := by
  have := x.isLt
  simp only [lowRegs, List.length_take, Vector.length_toList]
  omega

theorem lowRegs_getElem (v : Vector Byte 16) (x : Reg) (k : Nat) (hk : k < (lowRegs v x).length) (hk' : k < 16) :
    (lowRegs v x)[k] = v[k] := by
  simp only [lowRegs, List.getElem_take, Vector.getElem_toList]

/-- After loading the first n registers, those below n hold their bytes and the others are kept. -/
theorem loadLowRegs_getElem (bytes : Nat → Byte) (n : Nat) (v : Vector Byte 16) (r : Nat) (hr : r < 16) :
    (loadLowRegs bytes n v)[r] = if r < n then bytes r else v[r] := by
  induction n with
  | zero => simp [loadLowRegs]
  | succ n ih =>
    simp only [loadLowRegs, Vector.getElem_setIfInBounds, ih]
    by_cases h1 : n = r
    · subst h1; simp
    · by_cases h2 : r < n
      · rw [if_neg h1, if_pos h2, if_pos (by omega)]
      · rw [if_neg h1, if_neg h2, if_neg (by omega)]

/-- Moving I past data that lies inside memory does not wrap. -/
theorem pastData_toNat {w : Word} {n : Nat} (h : w.toNat + n < 65536) : (pastData w n).toNat = w.toNat + n := by
  simp only [pastData, BitVec.toNat_add, BitVec.toNat_ofNat]
  omega

/-! ### Flags -/

/-- Result first, flag last (42_alu.md R133 (c)): VF holds the flag, the destination its result unless it is VF. -/
theorem reg_writeWithFlag (x r : Reg) (a f : Byte) (s : State) :
    (writeWithFlag .flagLast x a f s).reg r = if r = vf then f else if r = x then a else s.reg r := by
  simp only [writeWithFlag, State.reg_setReg]

theorem writeWithFlag_frame (o : VfOrder) (x : Reg) (a f : Byte) (s : State) :
    writeWithFlag o x a f s = s.setRegs (writeWithFlag o x a f s).v := by
  cases o <;> rfl

/-! ### Drawing -/

theorem drawRow_fb (b : Byte) (c : Nat) (row : Fin 32) (fb : Vector Row 32) (r : Fin 32) :
    (drawRow b c row fb).1[r] = if row = r then fb[r] ^^^ rowMask b c else fb[r] := by
  simp only [drawRow, Fin.getElem_fin, Vector.getElem_set]
  by_cases h : row = r
  · subst h; simp
  · have : row.val ≠ r.val := fun e => h (Fin.ext e)
    simp [h, this]

/-- Different sprite rows fall on different framebuffer rows, since a sprite has at most 15 (44_graphics.md R151 (e)). -/
theorem targetRow_injective {y : Byte} {j k : Nat} (hj : j < 32) (hk : k < 32) (h : targetRow y j = targetRow y k) :
    j = k := by
  have := congrArg Fin.val h
  simp only [targetRow] at this
  omega

/-- A framebuffer row after n sprite rows: XORed with the mask of the one sprite row that falls on it, if any. -/
theorem drawRows_fb (sprite : Nat → Byte) (c : Nat) (y : Byte) (n : Nat) (hn : n ≤ 32) (fb : Vector Row 32) (r : Fin 32) :
    ((∀ k < n, targetRow y k ≠ r) → (drawRows sprite c y n fb).1[r] = fb[r]) ∧
      ∀ k < n, targetRow y k = r → (drawRows sprite c y n fb).1[r] = fb[r] ^^^ rowMask (sprite k) c := by
  induction n with
  | zero => exact ⟨fun _ => rfl, fun k hk => absurd hk (Nat.not_lt_zero k)⟩
  | succ n ih =>
    obtain ⟨ih1, ih2⟩ := ih (by omega)
    simp only [drawRows, drawRow_fb]
    refine ⟨fun h => ?_, fun k hk hr => ?_⟩
    · rw [if_neg (h n (by omega)), ih1 fun k hk => h k (by omega)]
    · rcases Nat.lt_succ_iff_lt_or_eq.mp hk with hk | rfl
      · rw [if_neg, ih2 k hk hr]
        intro e
        exact absurd (targetRow_injective (by omega) (by omega) (e.trans hr.symm)) (by omega)
      · rw [if_pos hr, ih1]
        intro j hj e
        exact absurd (targetRow_injective (by omega) (by omega) (e.trans hr.symm)) (by omega)

/-- The collision flag after n sprite rows: some row's mask met a lit pixel of the framebuffer as it was before the draw. -/
theorem drawRows_collision (sprite : Nat → Byte) (c : Nat) (y : Byte) (n : Nat) (hn : n ≤ 32) (fb : Vector Row 32) :
    (drawRows sprite c y n fb).2 = true ↔ ∃ k < n, fb[targetRow y k] &&& rowMask (sprite k) c ≠ 0 := by
  induction n with
  | zero => simp [drawRows]
  | succ n ih =>
    have hfb : (drawRows sprite c y n fb).1[targetRow y n] = fb[targetRow y n] :=
      (drawRows_fb sprite c y n (by omega) fb (targetRow y n)).1 fun k hk e =>
        absurd (targetRow_injective (by omega) (by omega) e) (by omega)
    simp only [drawRows, drawRow, Bool.or_eq_true, ih (by omega), hfb, bne_iff_ne]
    constructor
    · rintro (⟨k, hk, h⟩ | h)
      · exact ⟨k, by omega, h⟩
      · exact ⟨n, by omega, h⟩
    · rintro ⟨k, hk, h⟩
      rcases Nat.lt_succ_iff_lt_or_eq.mp hk with hk | rfl
      · exact Or.inl ⟨k, hk, h⟩
      · exact Or.inr h

/-- The bit of a row mask at column c of the display (44_graphics.md R152): sprite bit 7 - j at column x + j, nothing elsewhere. -/
theorem rowMask_getLsbD (b : Byte) (x : Nat) (c : Fin 64) :
    (rowMask b x).getLsbD (63 - c.val) =
      (decide (x ≤ c.val) && decide (c.val < x + 8) && b.getLsbD (7 - (c.val - x))) := by
  have hc := c.isLt
  simp only [rowMask, BitVec.getLsbD_ushiftRight, BitVec.getLsbD_shiftLeft, BitVec.getLsbD_setWidth]
  by_cases h1 : x ≤ c.val
  · by_cases h2 : c.val < x + 8
    · have e : x + (63 - c.val) - 56 = 7 - (c.val - x) := by omega
      have h3 : x + (63 - c.val) < 64 := by omega
      have h4 : ¬ x + (63 - c.val) < 56 := by omega
      have h5 : 7 - (c.val - x) < 64 := by omega
      simp [h1, h2, h3, h4, h5, e]
    · have h4 : x + (63 - c.val) < 56 := by omega
      simp [h2, h4]
  · have h3 : ¬ x + (63 - c.val) < 64 := by omega
    simp [h1, h3]

/-! ### The step -/

/-- Everything a step can do: nothing behind a gate, a fetch fault, the instruction at pc, or the skip of an unmatched word. -/
theorem step_cases (s : State) :
    (s.fault ≠ none ∨ s.awaited ≠ none) ∧ step s = .next s ∨
    (s.fault = none ∧ s.awaited = none) ∧
      (4094 < s.pc.toNat ∧ step s = .next (s.takeFault { cause := .fetchOutOfRange, info := max s.pc.toNat 4096 } 0) ∨
       s.pc.toNat ≤ 4094 ∧
        ((∃ i, decode (wordOfBytes (s.byteAt s.pc.toNat) (s.byteAt (s.pc.toNat + 1))) = .ok i ∧ step s = exec i s) ∨
         ∃ e, decode (wordOfBytes (s.byteAt s.pc.toNat) (s.byteAt (s.pc.toNat + 1))) = .error e ∧ step s = .next s.advance)) := by
  rcases hf : s.fault with _ | f
  · rcases ha : s.awaited with _ | a
    · refine Or.inr ⟨⟨rfl, rfl⟩, ?_⟩
      by_cases hp : s.pc.toNat ≤ 4094
      · refine Or.inr ⟨hp, ?_⟩
        simp only [step, cycle, hf, ha, fetch_spec, if_pos hp, runWord]
        cases decode (wordOfBytes (s.byteAt s.pc.toNat) (s.byteAt (s.pc.toNat + 1))) with
        | ok i => exact Or.inl ⟨i, rfl, rfl⟩
        | error e => exact Or.inr ⟨e, rfl, rfl⟩
      · refine Or.inl ⟨by omega, ?_⟩
        simp only [step, cycle, hf, ha, fetch_spec, if_neg hp]
        rfl
    · exact Or.inl ⟨Or.inr (by simp), by simp [step, cycle, hf, ha]⟩
  · exact Or.inl ⟨Or.inl (by simp), by simp [step, cycle, hf]⟩

end Sys2Proof.Machine
end

