-- ==== Sys2Proof/Laws/Exec.lean ====
section
/-! SUPPORT. The instructions that can fault: what each leaves when it completes, in the named operations. The instructions that cannot
fault are `retire` of their effect (`retire_eq`); a fault taken is `attempt_error`. -/

namespace Sys2Proof.Machine

variable {s : State}

theorem exec_ret_ok {k : Nat} (hk : k < 16) (h : s.sp.val = k + 1) :
    exec .ret s = .next ((s.advance.setStack s.stack ⟨k, by omega⟩).setPc s.stack[k]) :=
  attempt_ok (popPc_ok hk h)

theorem exec_call_ok (nnn : BitVec 12) (h : s.sp.val < 16) :
    exec (.call nnn) s =
      .next ((s.advance.setStack (s.stack.set s.sp.val (s.pc + 2)) ⟨s.sp.val + 1, by omega⟩).setPc (addressOf nnn)) := by
  simp only [exec, execCall, execCallWith, attempt, config_stack]
  rw [push_ok (s := s.advance) _ h]
  rfl

theorem exec_ldB_ok (x : Reg) (h : s.i.toNat + 3 ≤ 4096) :
    exec (.ldB x) s = .next (s.advance.setMem (s.mem.store config s.i.toNat (bcdDigits (s.reg x)))) := by
  simp only [exec, execLdB, execLdBWith, attempt, config_oob]
  rw [checkData_ok (w := s.advance.i) (.inr h)]
  rfl

theorem exec_dump_ok (x : Reg) (h : s.i.toNat + (x.val + 1) ≤ 4096) :
    exec (.dump x) s =
      .next ((s.advance.setMem (s.mem.store config s.i.toNat (lowRegs s.v x))).setI (pastData s.i (x.val + 1))) := by
  simp only [exec, execDump, execDumpWith, attempt, config_oob]
  rw [checkData_ok (w := s.advance.i) (.inr h)]
  rfl

theorem exec_load_ok (x : Reg) (h : s.i.toNat + (x.val + 1) ≤ 4096) :
    exec (.load x) s =
      .next ((s.advance.setRegs (loadLowRegs (fun k => s.byteAt (s.i.toNat + k)) (x.val + 1) s.v)).setI
        (pastData s.i (x.val + 1))) := by
  simp only [exec, execLoad, execLoadWith, attempt, config_oob]
  rw [checkData_ok (w := s.advance.i) (.inr h)]
  rfl

/-- What DRW draws: the sprite at I, from the origin Vx, Vy, on the framebuffer of the state before (R151). -/
def drawn (s : State) (x y : Reg) (n : BitVec 4) : Vector Row 32 × Bool :=
  drawRows (fun r => s.byteAt (s.i.toNat + r)) (s.reg x).toNat (s.reg y) n.toNat s.fb

theorem exec_drw_ok (x y : Reg) (n : BitVec 4) (h : n.toNat = 0 ∨ s.i.toNat + n.toNat ≤ 4096) :
    exec (.drw x y n) s = .next ((s.advance.setFb (drawn s x y n).1).setReg vf (flagByte (drawn s x y n).2)) := by
  simp only [exec, execDrw, execDrwWith, attempt, config_oob, config_draw]
  rw [checkData_ok (w := s.advance.i) h]
  rfl

theorem exec_skp_ok (x : Reg) (k : Key) (h : (s.reg x).toNat = k.val) :
    exec (.skp x) s = .next (skipIf s.keys[k] s.advance) := by
  simp only [exec, execSkp, execSkpWith, attempt, config_key]
  rw [keyIndex_ok (b := s.advance.reg x) h]
  rfl

theorem exec_sknp_ok (x : Reg) (k : Key) (h : (s.reg x).toNat = k.val) :
    exec (.sknp x) s = .next (skipIf (!s.keys[k]) s.advance) := by
  simp only [exec, execSknp, execSknpWith, attempt, config_key]
  rw [keyIndex_ok (b := s.advance.reg x) h]
  rfl

end Sys2Proof.Machine
end

