-- ==== Sys2Proof/Laws/Params.lean ====
section
/-! SUPPORT. The machine is the parametric machine at `config` (00_scope.md R7), and what holds of reset under every choice. -/

namespace Sys2Proof.Machine

/-- The dispatch of the machine is the parametric dispatch at its own choice. -/
theorem execWith_config : execWith config = exec := by
  funext i s
  cases i <;> rfl

/-- `Step` of the machine is the parametric `Step` at its own choice. -/
theorem stepWith_config : stepWith config = step := by
  funext s
  rw [stepWith, execWith_config, step]

/-- Each operation of the machine is the parametric one at its own choice. -/
theorem performWith_config : performWith config = perform := by
  funext o s
  rw [performWith, stepWith_config, perform]

/-- A schedule of the machine is the parametric one at its own choice. -/
theorem performAllWith_config : performAllWith config = performAll := by
  funext os s
  rw [performAllWith, performWith_config, performAll]

/-- The machine after `Initialize` holds the glyphs of FONT at 0..79 and zeros above, whatever FONT is (20_memory.md R51). -/
theorem readWith_reset (f : Font) (a : Nat) : State.reset.mem.readWith f a = initialByte f a := rfl

end Sys2Proof.Machine
end

