-- ==== Sys2Proof/Laws/PerInstr.lean ====
section
/-! SUPPORT. The family RowMatch: the word of every instruction matches its own row of the opcode table and no other. The masks and
matches are copied from 30_encoding.md R75, apart from the encoder. -/

namespace Sys2Proof

/-- The mask and match columns of R75, one entry a constructor of `Instr`. -/
def tableRow : Instr → Word × Word
  | .cls => (0xFFFF#16, 0x00E0#16)
  | .ret => (0xFFFF#16, 0x00EE#16)
  | .jp _ => (0xF000#16, 0x1000#16)
  | .call _ => (0xF000#16, 0x2000#16)
  | .seImm _ _ => (0xF000#16, 0x3000#16)
  | .sneImm _ _ => (0xF000#16, 0x4000#16)
  | .seReg _ _ => (0xF00F#16, 0x5000#16)
  | .sneReg _ _ => (0xF00F#16, 0x9000#16)
  | .ldImm _ _ => (0xF000#16, 0x6000#16)
  | .addImm _ _ => (0xF000#16, 0x7000#16)
  | .ldReg _ _ => (0xF00F#16, 0x8000#16)
  | .orReg _ _ => (0xF00F#16, 0x8001#16)
  | .andReg _ _ => (0xF00F#16, 0x8002#16)
  | .xorReg _ _ => (0xF00F#16, 0x8003#16)
  | .addReg _ _ => (0xF00F#16, 0x8004#16)
  | .subReg _ _ => (0xF00F#16, 0x8005#16)
  | .subnReg _ _ => (0xF00F#16, 0x8007#16)
  | .shlReg _ _ => (0xF00F#16, 0x800E#16)
  | .shrReg _ _ => (0xF00F#16, 0x8006#16)
  | .ldI _ => (0xF000#16, 0xA000#16)
  | .jpV0 _ => (0xF000#16, 0xB000#16)
  | .rnd _ _ => (0xF000#16, 0xC000#16)
  | .drw _ _ _ => (0xF000#16, 0xD000#16)
  | .skp _ => (0xF0FF#16, 0xE09E#16)
  | .sknp _ => (0xF0FF#16, 0xE0A1#16)
  | .ldVxDt _ => (0xF0FF#16, 0xF007#16)
  | .ldDtVx _ => (0xF0FF#16, 0xF015#16)
  | .ldStVx _ => (0xF0FF#16, 0xF018#16)
  | .ldVxK _ => (0xF0FF#16, 0xF00A#16)
  | .addI _ => (0xF0FF#16, 0xF01E#16)
  | .ldF _ => (0xF0FF#16, 0xF029#16)
  | .ldB _ => (0xF0FF#16, 0xF033#16)
  | .dump _ => (0xF0FF#16, 0xF055#16)
  | .load _ => (0xF0FF#16, 0xF065#16)

/-- The word is one of the row's (R74). -/
def rowMatches (row : Word × Word) (w : Word) : Prop := w &&& row.1 = row.2

theorem mask_encodeA (op : BitVec 4) (nnn : BitVec 12) : rowMatches (0xF000#16, encodeA op 0) (encodeA op nnn) := by
  apply word_ext
  intro k hk
  interval_cases k <;> simp [encodeA, getElem_at16]

theorem mask_encodeXI (op : BitVec 4) (x : Reg) (nn : Byte) : rowMatches (0xF000#16, encodeXI op 0 0) (encodeXI op x nn) := by
  apply word_ext
  intro k hk
  interval_cases k <;> simp [encodeXI, getElem_at16, fieldOfReg]

theorem mask_encodeXF (op : BitVec 4) (x : Reg) (nn : Byte) : rowMatches (0xF0FF#16, encodeXI op 0 nn) (encodeXI op x nn) := by
  apply word_ext
  intro k hk
  interval_cases k <;> simp [encodeXI, getElem_at16, fieldOfReg]

theorem mask_encodeXY (op : BitVec 4) (x y : Reg) (n : BitVec 4) :
    rowMatches (0xF00F#16, encodeXYN op 0 0 n) (encodeXYN op x y n) := by
  apply word_ext
  intro k hk
  interval_cases k <;> simp [encodeXYN, getElem_at16, fieldOfReg]

theorem mask_encodeXYN (op : BitVec 4) (x y : Reg) (n : BitVec 4) :
    rowMatches (0xF000#16, encodeXYN op 0 0 0) (encodeXYN op x y n) := by
  apply word_ext
  intro k hk
  interval_cases k <;> simp [encodeXYN, getElem_at16, fieldOfReg]

/-- The rows of R75 as pairs of numbers. -/
def tableRows : List (Nat × Nat) :=
  [(0xFFFF, 0x00E0), (0xFFFF, 0x00EE), (0xF000, 0x1000), (0xF000, 0x2000), (0xF000, 0x3000), (0xF000, 0x4000), (0xF00F, 0x5000), (0xF00F, 0x9000), (0xF000, 0x6000)] ++
  [(0xF000, 0x7000), (0xF00F, 0x8000), (0xF00F, 0x8001), (0xF00F, 0x8002), (0xF00F, 0x8003), (0xF00F, 0x8004), (0xF00F, 0x8005), (0xF00F, 0x8007), (0xF00F, 0x800E)] ++
  [(0xF00F, 0x8006), (0xF000, 0xA000), (0xF000, 0xB000), (0xF000, 0xC000), (0xF000, 0xD000), (0xF0FF, 0xE09E), (0xF0FF, 0xE0A1), (0xF0FF, 0xF007), (0xF0FF, 0xF015)] ++
  [(0xF0FF, 0xF018), (0xF0FF, 0xF00A), (0xF0FF, 0xF01E), (0xF0FF, 0xF029), (0xF0FF, 0xF033), (0xF0FF, 0xF055), (0xF0FF, 0xF065)]

/-- No word belongs to two rows (R74): two rows differ on a bit both of them fix. -/
theorem tableRows_disjoint : tableRows.Pairwise fun p q => p.2 &&& q.1 ≠ q.2 &&& p.1 := by decide

end Sys2Proof

namespace Sys2Proof.Laws.RowMatch

/-- The word of the instruction is one of its row's words. -/
def Statement (i : Instr) : Prop := rowMatches (tableRow i) (encode i)

theorem cls : Statement (.cls) := rfl
theorem ret : Statement (.ret) := rfl
theorem jp (nnn : BitVec 12) : Statement (.jp nnn) := mask_encodeA _ nnn
theorem call (nnn : BitVec 12) : Statement (.call nnn) := mask_encodeA _ nnn
theorem seImm (x : Reg) (nn : Byte) : Statement (.seImm x nn) := mask_encodeXI _ x nn
theorem sneImm (x : Reg) (nn : Byte) : Statement (.sneImm x nn) := mask_encodeXI _ x nn
theorem seReg (x y : Reg) : Statement (.seReg x y) := mask_encodeXY _ x y _
theorem sneReg (x y : Reg) : Statement (.sneReg x y) := mask_encodeXY _ x y _
theorem ldImm (x : Reg) (nn : Byte) : Statement (.ldImm x nn) := mask_encodeXI _ x nn
theorem addImm (x : Reg) (nn : Byte) : Statement (.addImm x nn) := mask_encodeXI _ x nn
theorem ldReg (x y : Reg) : Statement (.ldReg x y) := mask_encodeXY _ x y _
theorem orReg (x y : Reg) : Statement (.orReg x y) := mask_encodeXY _ x y _
theorem andReg (x y : Reg) : Statement (.andReg x y) := mask_encodeXY _ x y _
theorem xorReg (x y : Reg) : Statement (.xorReg x y) := mask_encodeXY _ x y _
theorem addReg (x y : Reg) : Statement (.addReg x y) := mask_encodeXY _ x y _
theorem subReg (x y : Reg) : Statement (.subReg x y) := mask_encodeXY _ x y _
theorem subnReg (x y : Reg) : Statement (.subnReg x y) := mask_encodeXY _ x y _
theorem shlReg (x y : Reg) : Statement (.shlReg x y) := mask_encodeXY _ x y _
theorem shrReg (x y : Reg) : Statement (.shrReg x y) := mask_encodeXY _ x y _
theorem ldI (nnn : BitVec 12) : Statement (.ldI nnn) := mask_encodeA _ nnn
theorem jpV0 (nnn : BitVec 12) : Statement (.jpV0 nnn) := mask_encodeA _ nnn
theorem rnd (x : Reg) (nn : Byte) : Statement (.rnd x nn) := mask_encodeXI _ x nn
theorem drw (x y : Reg) (n : BitVec 4) : Statement (.drw x y n) := mask_encodeXYN _ x y n
theorem skp (x : Reg) : Statement (.skp x) := mask_encodeXF _ x _
theorem sknp (x : Reg) : Statement (.sknp x) := mask_encodeXF _ x _
theorem ldVxDt (x : Reg) : Statement (.ldVxDt x) := mask_encodeXF _ x _
theorem ldDtVx (x : Reg) : Statement (.ldDtVx x) := mask_encodeXF _ x _
theorem ldStVx (x : Reg) : Statement (.ldStVx x) := mask_encodeXF _ x _
theorem ldVxK (x : Reg) : Statement (.ldVxK x) := mask_encodeXF _ x _
theorem addI (x : Reg) : Statement (.addI x) := mask_encodeXF _ x _
theorem ldF (x : Reg) : Statement (.ldF x) := mask_encodeXF _ x _
theorem ldB (x : Reg) : Statement (.ldB x) := mask_encodeXF _ x _
theorem dump (x : Reg) : Statement (.dump x) := mask_encodeXF _ x _
theorem load (x : Reg) : Statement (.load x) := mask_encodeXF _ x _

end Sys2Proof.Laws.RowMatch
end

