-- ==== Sys2Proof/Tests/Slice0.lean ====
section
/-! SUPPORT. Tests. A number T<n> or S<n> names the vector of 95_test_vectors.md the expected values come from; the others are worked from
the rule named. A theorem witness_<statement> shows a state and operands that meet the hypotheses of that statement. -/

namespace Sys2Proof.Tests

open Sys2Proof Sys2Proof.Machine Sys2Proof.Safety

/-- One field of a next state; none where there is no next state. -/
def got {α : Type} (f : State → α) : Host.Outcome State Fault Refusal → Option α
  | .next t => some (f t)
  | .fault _ => none
  | .refused _ => none

/-- The outcome is this refusal. -/
def refusedWith (r : Refusal) : Host.Outcome State Fault Refusal → Bool
  | .refused q => q == r
  | _ => false

/-- `Step` with the word at pc. -/
def run (w : Nat) (s : State) : Host.Outcome State Fault Refusal := step (s.withFetchWord 16 w)

/-- The state after reset with some registers set. -/
def regs (l : List (Reg × Byte)) : State := l.foldl (fun s p => s.setReg p.1 p.2) State.reset

/-- The state with I and the bytes from there on. -/
def atI (w : Word) (bytes : List Byte) (s : State) : State := (s.setMem (s.mem.store config w.toNat bytes)).setI w

/-- The state with one framebuffer row set. -/
def row (r : Fin 32) (w : Row) (s : State) : State := s.setFb (s.fb.set r w)

/-- The fault a state holds, as the vectors write it: cause code, at_pc, opcode, info. -/
def faultOf (s : State) : Option (Nat × Nat × Nat × Nat) :=
  s.fault.map fun f => (f.cause.code, f.atPc.toNat, f.opcode.toNat, f.info)

/-! ### Well-formedness -/

theorem test_unmatched_class_0 : WellFormedWord 0x0123 = false := by decide
theorem test_unmatched_class_5 : WellFormedWord 0x5121 = false := by decide
theorem test_unmatched_class_8 : WellFormedWord 0x8128 = false := by decide
theorem test_unmatched_class_9 : WellFormedWord 0x9AB1 = false := by decide
theorem test_unmatched_class_E : WellFormedWord 0xE19F = false := by decide
theorem test_unmatched_class_F : WellFormedWord 0xF1FF = false := by decide
theorem test_wellFormed_words : [0x00E0#16, 0x5120, 0x812E, 0x9AB0, 0xE1A1, 0xF165].all WellFormedWord = true := by decide
theorem image_length (n : Nat) : WellFormedImage (List.replicate n 0) = decide (n ≤ 3584) := by
  simp [WellFormedImage, programMax]

theorem test_image_too_long : WellFormedImage (List.replicate 3585 0) = false := image_length 3585
theorem test_image_fits : WellFormedImage (List.replicate 3584 0) = true := image_length 3584
theorem test_memory_unsorted : Memory.wf [(0x301, 1), (0x300, 1)] = false := by decide
theorem test_memory_repeated : Memory.wf [(0x300, 1), (0x300, 2)] = false := by decide
theorem test_memory_beyond : Memory.wf [(4096, 1)] = false := by decide
theorem test_memory_default_cell : Memory.wf [(0, 0xF0)] = false := by decide
theorem test_memory_canonical : Memory.wf [(0, 0x00), (0x300, 1), (4095, 1)] = true := by decide
theorem test_write_of_default_removes : Memory.write [(0x300, 1)] 0x300 0 = [] := by decide

/-! ### Decoding: every constructor, from a word written out from 30_encoding.md R75 -/

theorem test_decode_cls : decode 0x00E0 = .ok .cls := by decide
theorem test_decode_ret : decode 0x00EE = .ok .ret := by decide
theorem test_decode_jp : decode 0x1234 = .ok (.jp 0x234) := by decide
theorem test_decode_call : decode 0x2ABC = .ok (.call 0xABC) := by decide
theorem test_decode_seImm : decode 0x3A07 = .ok (.seImm 10 0x07) := by decide
theorem test_decode_sneImm : decode 0x4A07 = .ok (.sneImm 10 0x07) := by decide
theorem test_decode_seReg : decode 0x5120 = .ok (.seReg 1 2) := by decide
theorem test_decode_sneReg : decode 0x9120 = .ok (.sneReg 1 2) := by decide
theorem test_decode_ldImm : decode 0x6A2F = .ok (.ldImm 10 0x2F) := by decide
theorem test_decode_addImm : decode 0x71FF = .ok (.addImm 1 0xFF) := by decide
theorem test_decode_ldReg : decode 0x8120 = .ok (.ldReg 1 2) := by decide
theorem test_decode_orReg : decode 0x8121 = .ok (.orReg 1 2) := by decide
theorem test_decode_andReg : decode 0x8122 = .ok (.andReg 1 2) := by decide
theorem test_decode_xorReg : decode 0x8123 = .ok (.xorReg 1 2) := by decide
theorem test_decode_addReg : decode 0x8124 = .ok (.addReg 1 2) := by decide
theorem test_decode_subReg : decode 0x8125 = .ok (.subReg 1 2) := by decide
theorem test_decode_subnReg : decode 0x8127 = .ok (.subnReg 1 2) := by decide
theorem test_decode_shlReg : decode 0x812E = .ok (.shlReg 1 2) := by decide
theorem test_decode_shrReg : decode 0x8126 = .ok (.shrReg 1 2) := by decide
theorem test_decode_ldI : decode 0xA2F0 = .ok (.ldI 0x2F0) := by decide
theorem test_decode_jpV0 : decode 0xB300 = .ok (.jpV0 0x300) := by decide
theorem test_decode_rnd : decode 0xC30F = .ok (.rnd 3 0x0F) := by decide
theorem test_decode_drw : decode 0xD125 = .ok (.drw 1 2 5) := by decide
theorem test_decode_skp : decode 0xE19E = .ok (.skp 1) := by decide
theorem test_decode_sknp : decode 0xE1A1 = .ok (.sknp 1) := by decide
theorem test_decode_ldVxDt : decode 0xF107 = .ok (.ldVxDt 1) := by decide
theorem test_decode_ldDtVx : decode 0xF115 = .ok (.ldDtVx 1) := by decide
theorem test_decode_ldStVx : decode 0xF218 = .ok (.ldStVx 2) := by decide
theorem test_decode_ldVxK : decode 0xF30A = .ok (.ldVxK 3) := by decide
theorem test_decode_addI : decode 0xF21E = .ok (.addI 2) := by decide
theorem test_decode_ldF : decode 0xF029 = .ok (.ldF 0) := by decide
theorem test_decode_ldB : decode 0xF333 = .ok (.ldB 3) := by decide
theorem test_decode_dump : decode 0xF255 = .ok (.dump 2) := by decide
theorem test_decode_load : decode 0xF265 = .ok (.load 2) := by decide
theorem test_decode_truncated : decodeBytes [0x12] = .error .truncated := by decide
theorem test_decode_stream : decodeBytes [0x12, 0x34, 0x56] = .ok (.jp 0x234, [0x56]) := by decide
theorem test_encode_words : [Instr.drw 1 2 5, .load 2, .jpV0 0x300, .shlReg 1 2].map encode = [0xD125, 0xF265, 0xB300, 0x812E] := by decide
theorem test_tableWord : decodeTableWord 16 0xD125 = some (.drw 1 2 5) := by decide
theorem test_tableWord_unmatched : decodeTableWord 16 0x8128 = none := by decide

/-! ### Step, fetch and the gates -/

/-- T1. -/
theorem test_step_jp : got (·.pc) (run 0x1234 State.reset) = some 0x234 := by decide
/-- T2, from reset with nothing placed. -/
theorem test_step_unmatched : got id (step State.reset) = some { State.reset with pc := 0x202 } := by decide
/-- T6. -/
theorem test_odd_pc : got (fun t => (t.reg 0, t.pc)) (run 0x602A (State.reset.setPc 0x201)) = some (0x2A, 0x203) := by decide
/-- T7. -/
theorem test_last_word : got (fun t => (t.reg 0, t.pc)) (run 0x6001 (State.reset.setPc 0xFFE)) = some (1, 0x1000) := by decide
/-- T8. -/
theorem test_fetch_fault_low : got (fun t => (faultOf t, t.pc)) (step (State.reset.setPc 0xFFF)) = some (some (1, 0xFFF, 0, 0x1000), 0xFFF) := by decide
/-- T25, the second step. -/
theorem test_fetch_fault_high : got faultOf (step (State.reset.setPc 0x10FE)) = some (some (1, 0x10FE, 0, 0x10FE)) := by decide
/-- T9. -/
theorem test_wait_gate : got id (step (State.reset.setAwaited (some 5))) = some (State.reset.setAwaited (some 5)) := by decide
/-- Where pc has no two bytes, `withFetchWord` places the word at 0x200 (log 13). -/
theorem test_withFetchWord : got (·.pc) (run 0x1234 (State.reset.setPc 0xFFFF)) = some 0x234 := by decide

/-! ### Control flow -/

/-- T11. -/
theorem test_ret : got (fun t => (t.sp, t.pc, t.stack[0])) (run 0x00EE (State.reset.setStack (State.reset.stack.set 0 0x206) 1)) = some (0, 0x206, 0x206) := by decide
/-- T12. -/
theorem test_ret_underflow : got (fun t => (faultOf t, t.pc, t.sp)) (run 0x00EE State.reset) = some (some (4, 0x200, 0x00EE, 0), 0x200, 0) := by decide
/-- T13. -/
theorem test_call : got (fun t => (t.stack[0], t.sp, t.pc)) (run 0x2300 (State.reset.setPc 0x204)) = some (0x206, 1, 0x300) := by decide
/-- T15. -/
theorem test_call_overflow : got (fun t => (faultOf t, t.pc, t.sp)) (run 0x2300 (State.reset.setStack State.reset.stack 16)) = some (some (3, 0x200, 0x2300, 16), 0x200, 16) := by decide
/-- T16, T17. -/
theorem test_seImm_taken : got (·.pc) (run 0x3A07 (regs [(10, 7)])) = some 0x204 := by decide
theorem test_seImm_not : got (·.pc) (run 0x3A07 (regs [(10, 8)])) = some 0x202 := by decide
/-- T18, T19. -/
theorem test_sneImm_not : got (·.pc) (run 0x4A07 (regs [(10, 7)])) = some 0x202 := by decide
theorem test_sneImm_taken : got (·.pc) (run 0x4A07 (regs [(10, 8)])) = some 0x204 := by decide
/-- T20. -/
theorem test_seReg : got (·.pc) (run 0x5120 (regs [(1, 0x33), (2, 0x33)])) = some 0x204 := by decide
/-- T22. -/
theorem test_sneReg : got (·.pc) (run 0x9120 (regs [(1, 1), (2, 2)])) = some 0x204 := by decide
/-- T25, T26. -/
theorem test_jpV0_past_12_bits : got (·.pc) (run 0xBFFF (regs [(0, 0xFF)])) = some 0x10FE := by decide
theorem test_jpV0_reads_V0 : got (·.pc) (run 0xB300 (regs [(3, 9)])) = some 0x300 := by decide

/-! ### Arithmetic and logic -/

/-- T29. -/
theorem test_ldImm : got (·.reg 15) (run 0x6FAB State.reset) = some 0xAB := by decide
/-- T30. -/
theorem test_addImm : got (fun t => (t.reg 1, t.reg 15)) (run 0x71FF (regs [(1, 5), (15, 7)])) = some (4, 7) := by decide
/-- T32. -/
theorem test_ldReg : got (·.reg 1) (run 0x8120 (regs [(2, 0x7E)])) = some 0x7E := by decide
/-- T33. -/
theorem test_orReg : got (fun t => (t.reg 1, t.reg 15)) (run 0x8121 (regs [(1, 0xF0), (2, 0x0F), (15, 9)])) = some (0xFF, 9) := by decide
/-- T34. -/
theorem test_andReg : got (·.reg 1) (run 0x8122 (regs [(1, 0xF3), (2, 0x3C)])) = some 0x30 := by decide
/-- T35. -/
theorem test_xorReg : got (·.reg 1) (run 0x8123 (regs [(1, 0xFF), (2, 0x0F)])) = some 0xF0 := by decide
/-- T39, T41. -/
theorem test_addReg_carry : got (fun t => (t.reg 0, t.reg 15)) (run 0x8014 (regs [(0, 0xFF), (1, 1)])) = some (0, 1) := by decide
theorem test_addReg_into_VF : got (·.reg 15) (run 0x8F14 (regs [(15, 0xF0), (1, 0x20)])) = some 1 := by decide
/-- T44, T46. -/
theorem test_subReg_borrow : got (fun t => (t.reg 0, t.reg 15)) (run 0x8015 (regs [(0, 0x10), (1, 0x20)])) = some (0xF0, 0) := by decide
theorem test_subReg_equal : got (fun t => (t.reg 0, t.reg 15)) (run 0x8015 (regs [(0, 0x33), (1, 0x33)])) = some (0, 1) := by decide
/-- T48, T49. -/
theorem test_subnReg : got (fun t => (t.reg 0, t.reg 15)) (run 0x8017 (regs [(0, 0x10), (1, 0x20)])) = some (0x10, 1) := by decide
theorem test_subnReg_borrow : got (fun t => (t.reg 0, t.reg 15)) (run 0x8017 (regs [(0, 0x20), (1, 0x10)])) = some (0xF0, 0) := by decide
/-- T51, T55. -/
theorem test_shrReg : got (fun t => (t.reg 1, t.reg 2, t.reg 15)) (run 0x8126 (regs [(1, 0xEE), (2, 5)])) = some (2, 5, 1) := by decide
theorem test_shrReg_from_VF : got (fun t => (t.reg 1, t.reg 15)) (run 0x81F6 (regs [(15, 3)])) = some (1, 1) := by decide
/-- T56, T57. -/
theorem test_shlReg : got (fun t => (t.reg 1, t.reg 2, t.reg 15)) (run 0x812E (regs [(1, 0xEE), (2, 0x81)])) = some (2, 0x81, 1) := by decide
theorem test_shlReg_no_carry : got (fun t => (t.reg 1, t.reg 15)) (run 0x812E (regs [(2, 0x40)])) = some (0x80, 0) := by decide
/-- T59. -/
theorem test_rnd_mask : (drawRandom 0xA7 3 0x0F State.reset).reg 3 = 0x07 := by decide
/-- T60: whatever byte is drawn. -/
theorem test_rnd_zero_mask : got (·.reg 3) (exec (.rnd 3 0) State.reset) = some 0 := by
  simp [got, exec, execRnd, retire, drawRandom]

/-! ### Address register and memory transfer -/

/-- T62. -/
theorem test_ldI : got (·.i) (run 0xA2F0 (State.reset.setI 0xFFFF)) = some 0x02F0 := by decide
/-- T64, T65. -/
theorem test_addI_no_flag : got (fun t => (t.i, t.reg 15)) (run 0xF21E ((regs [(2, 1)]).setI 0x0FFF)) = some (0x1000, 0) := by decide
theorem test_addI_wraps : got (·.i) (run 0xF21E ((regs [(2, 2)]).setI 0xFFFF)) = some 1 := by decide
/-- T67. -/
theorem test_ldF : got (·.i) (run 0xF029 (regs [(0, 0xFF)])) = some 0x04FB := by decide
/-- T71, T72. -/
theorem test_ldB : got (fun t => (t.byteAt 0xFFD, t.byteAt 0xFFE, t.byteAt 0xFFF, t.i)) (run 0xF333 ((regs [(3, 0xFF)]).setI 0xFFD)) = some (2, 5, 5, 0xFFD) := by decide
theorem test_ldB_fault : got (fun t => (faultOf t, t.byteAt 0xFFE, t.pc)) (run 0xF333 ((regs [(3, 1)]).setI 0xFFE)) = some (some (2, 0x200, 0xF333, 0x1000), 0, 0x200) := by decide
/-- T74, T77. -/
theorem test_dump : got (fun t => (t.byteAt 0x400, t.byteAt 0x401, t.byteAt 0x402, t.byteAt 0x403, t.i)) (run 0xF255 ((regs [(0, 0x11), (1, 0x22), (2, 0x33), (3, 0x44)]).setI 0x400)) = some (0x11, 0x22, 0x33, 0, 0x403) := by decide
theorem test_dump_fault : got (fun t => (faultOf t, t.i)) (run 0xFF55 (State.reset.setI 0xFF1)) = some (some (2, 0x200, 0xFF55, 0x1000), 0xFF1) := by decide
/-- T78, T80. -/
theorem test_load : got (fun t => (t.reg 0, t.reg 1, t.reg 2, t.reg 3, t.i)) (run 0xF265 (atI 0x300 [2, 3, 4] (regs [(3, 0xEA)]))) = some (2, 3, 4, 0xEA, 0x303) := by decide
theorem test_load_fault : got (fun t => (faultOf t, t.i)) (run 0xF165 (State.reset.setI 0xFFF)) = some (some (2, 0x200, 0xF165, 0x1000), 0xFFF) := by decide

/-! ### Graphics -/

/-- T82. -/
theorem test_cls : got (fun t => (t.fb, t.reg 15)) (run 0x00E0 (row 3 0xFFFF000000000000 (regs [(15, 1)]))) = some (Vector.replicate 32 0, 1) := by decide
/-- T89: rows wrap; T94: collision. -/
theorem test_drw_wraps : got (fun t => (t.fb[31], t.fb[0], t.reg 15)) (run 0xD012 (atI 0x300 [0xC0, 0x30] (regs [(0, 4), (1, 31)]))) = some (0x0C00000000000000, 0x0300000000000000, 0) := by decide
theorem test_drw_collides : got (fun t => (t.fb[0], t.reg 15)) (run 0xD011 (atI 0x300 [0x60] (row 0 0xC000000000000000 State.reset))) = some (0xA000000000000000, 1) := by decide
/-- S6, T85: columns clip. -/
theorem test_mask_clips : rowMask 0xFF (originColumn config.drawXPolicy 60) = 0xF := by decide
/-- T88: an origin of 64 draws nothing, and what `mod64` would draw. -/
theorem test_mask_beyond : rowMask 0xFF (originColumn .clipAll 64) = 0 ∧ rowMask 0xFF (originColumn .mod64 64) = 0xFF00000000000000 := by decide
/-- T98: the font is in memory after reset. -/
theorem test_font : (List.range 5).map State.reset.byteAt = [0xF0, 0x90, 0x90, 0x90, 0xF0] := by decide

/-! ### Timers and keypad -/

/-- T100. -/
theorem test_ldVxDt : got (·.reg 1) (run 0xF107 (State.reset.setDt 0x2A)) = some 0x2A := by decide
/-- T101. -/
theorem test_ldDtVx : got (·.dt) (run 0xF015 (regs [(0, 60)])) = some 60 := by decide
/-- T102, T103. -/
theorem test_ldStVx : got (fun t => (t.st, soundActive t)) (run 0xF218 (regs [(2, 3)])) = some (3, true) := by decide
theorem test_ldStVx_silent : got (fun t => (t.st, soundActive t)) (run 0xF218 (State.reset.setSt 9)) = some (0, false) := by decide
/-- T108. -/
theorem test_ldVxK : got (fun t => (t.awaited, t.pc, runState t)) (run 0xF30A (State.reset.setKeyFlag 7 true)) = some (some 3, 0x202, .awaitingKey) := by decide
/-- T114, T118. -/
theorem test_skp : got (·.pc) (run 0xE19E ((regs [(1, 4)]).setKeyFlag 4 true)) = some 0x204 := by decide
theorem test_skp_fault : got faultOf (run 0xE19E (regs [(1, 0x10)])) = some (some (5, 0x200, 0xE19E, 0x10)) := by decide
/-- T117, T119. -/
theorem test_sknp : got (·.pc) (run 0xE1A1 ((regs [(1, 4)]).setKeyFlag 4 true)) = some 0x202 := by decide
theorem test_sknp_fault : got faultOf (run 0xE1A1 (regs [(1, 0xFF)])) = some (some (5, 0x200, 0xE1A1, 0xFF)) := by decide

/-! ### The host's operations -/

/-- T106. -/
theorem test_tick : got (fun t => (t.dt, t.st, t.awaited)) (perform .tickTimers ((State.reset.setDt 5).setAwaited (some 4))) = some (4, 0, some 4) := by decide
/-- T112. -/
theorem test_setKey : got (fun t => (t.reg 0, t.keys[1], t.keys[2], t.awaited)) (performAll [.setKey 1 true, .setKey 2 true] (State.reset.setAwaited (some 0))) = some (1, true, true, none) := by decide
/-- T120. -/
theorem test_initialize : got (fun t => (t.pc, t.byteAt 80, t.byteAt 0x200)) (perform .initializeCore (State.reset.setMem [(0x200, 0x12)])) = some (0x200, 0, 0) := by decide
/-- T122. -/
theorem test_restart : got (fun t => (t.reg 3, t.i, t.keys[5], t.byteAt 0x200)) (perform .restart (((atI 0x345 [] (regs [(3, 9)])).setKeyFlag 5 true).setMem [(0x200, 0x12)])) = some (0, 0, true, 0x12) := by decide
/-- T123. -/
theorem test_clearProgram : got (fun t => (t.byteAt 0x200, t.byteAt 0x1FF, t.pc)) (perform .clearProgram ((State.reset.setMem [(0x1FF, 0x55), (0x200, 0x12)]).setPc 0x234)) = some (0, 0x55, 0x234) := by decide
/-- T124. -/
theorem test_fullReset : got (fun t => (t.keys[5], t.byteAt 0x200)) (perform .fullReset ((State.reset.setKeyFlag 5 true).setMem [(0x200, 0x12)])) = some (true, 0) := by decide
/-- T125. -/
theorem test_loadProgram : got (fun t => (t.byteAt 0x200, t.byteAt 0x201)) (perform (.loadProgram [0xAA]) (State.reset.setMem [(0x200, 0x11), (0x201, 0x22)])) = some (0xAA, 0x22) := by decide
theorem test_loadProgram_refused : refusedWith .programTooLong (perform (.loadProgram (List.replicate 3585 0)) State.reset) = true := by
  simp only [perform, operate, test_image_too_long]
  decide

/-! ### Other choices of the parameters (00_scope.md R7): the whole step under each -/

/-- `Step` under a choice of the parameters, with the word at pc. -/
def runWith (c : Config) (w : Word) (s : State) : Host.Outcome State Fault Refusal := stepWith c (placeWord w s)

/-- A font of zeros. -/
def darkFont : Font := Vector.replicate 16 (Vector.replicate 5 0)

/-- 41_control_flow.md R102, STACK_POLICY = wrap. -/
theorem test_call_wraps : got (fun t => (t.sp, t.stack[0], t.pc))
    (runWith { config with stackPolicy := .wrap } 0x2300 (State.reset.setStack State.reset.stack 16)) = some (1, 0x202, 0x300) := by decide
/-- R100, STACK_POLICY = wrap. -/
theorem test_ret_wraps : got (fun t => (t.sp, t.pc))
    (runWith { config with stackPolicy := .wrap } 0x00EE (State.reset.setStack (State.reset.stack.set 15 0x300) 0)) = some (15, 0x300) := by decide
/-- 20_memory.md R53, OOB_POLICY = wrap4096: the second byte at address 0 is the first font byte, F0, so the word 60F0 runs. -/
theorem test_fetch_wraps : got (fun t => (t.reg 0, t.pc))
    (stepWith { config with oobPolicy := .wrap4096 } ((State.reset.setMem [(0xFFF, 0x60)]).setPc 0xFFF)) = some (0xF0, 0x1001) := by decide
/-- R53, the same for a store. -/
theorem test_dump_wraps : got (fun t => (t.byteAt 0, t.i, t.fault))
    (runWith { config with oobPolicy := .wrap4096 } 0xF055 ((regs [(0, 0xAA)]).setI 0x1000)) = some (0xAA, 0x1001, none) := by decide
/-- 45_timers_keypad.md R166, KEY_INDEX_POLICY = low_nibble. -/
theorem test_key_low_nibble : got (·.pc)
    (runWith { config with keyIndexPolicy := .lowNibble } 0xE19E ((regs [(1, 0x1A)]).setKeyFlag 10 true)) = some 0x204 := by decide
/-- 42_alu.md R133 (c), VF_ORDER = result_last: T41 with the sum kept. -/
theorem test_result_last : got (·.reg 15)
    (runWith { config with vfOrder := .resultLast } 0x8F14 (regs [(15, 0xF0), (1, 0x20)])) = some 0x10 := by decide
/-- T88, DRAW_X_GE_64 = mod64. -/
theorem test_draw_mod64 : got (fun t => t.fb[0])
    (runWith { config with drawXPolicy := .mod64 } 0xD011 (atI 0x300 [0xFF] (regs [(0, 64)]))) = some 0xFF00000000000000 := by decide
/-- R51, another FONT: a program reads its bytes at 0, and reads back what it stores there. -/
theorem test_font_is_read : got (·.reg 0) (runWith { config with font := darkFont } 0xF065 State.reset) = some 0 := by decide
theorem test_font_is_overwritten : got (fun t => Memory.readWith darkFont t.mem 0)
    (runWith { config with font := darkFont } 0xF055 (regs [(0, 0xF0)])) = some 0xF0 := by decide

/-! ### Witnesses: the hypotheses of each statement that has some are met, its ranges at their ends -/

theorem witness_EncodeOfDecodeIsTheWord : decode 0xD125 = .ok (.drw 1 2 5) := by decide

theorem witness_DecodeRefusesExactlyUnmatchedWords : unmatchedWord 0x00E1 = true ∧ unmatchedWord 0x00E0 = false := by decide

/-- At the highest address an instruction can be fetched from. -/
def lastWord (w : Word) : State := placeWord w (State.reset.setPc 4094)

theorem witness_StepRunsTheDecodedInstruction :
    Running (lastWord 0x6001) ∧ FetchInRange (lastWord 0x6001) ∧ decode (wordAtPc (lastWord 0x6001)) = .ok (.ldImm 0 1) := by decide

theorem witness_StepSkipsUnmatchedWord :
    Running (lastWord 0x8128) ∧ FetchInRange (lastWord 0x8128) ∧ decode (wordAtPc (lastWord 0x8128)) = .error (.unmatched 0x8128) := by decide

theorem witness_StepSkipsUnmatchedWord_hypothesis : ∀ i, decode (wordAtPc (lastWord 0x8128)) ≠ .ok i := by
  intro i h
  rw [witness_StepSkipsUnmatchedWord.2.2] at h
  cases h

theorem witness_AwaitingKeyBlocksOnlyStep : (State.reset.setAwaited (some 15)).awaited = some 15 := by decide

/-- A fault of RET on an empty stack at reset. -/
def faulted : State := State.reset.takeFault { cause := .stackUnderflow, info := 0 } 0x00EE

theorem witness_FaultedMachineDoesNotStep : faultOf faulted = some (4, 0x200, 0x00EE, 0) := by decide

theorem witness_FetchBeyondMemoryFaults :
    (Running (State.reset.setPc 4095) ∧ 4095 ≤ (State.reset.setPc 4095).pc.toNat) ∧
      Running (State.reset.setPc 4096) ∧ 4096 ≤ (State.reset.setPc 4096).pc.toNat := by decide

theorem witness_FaultsAreExactAndPrecise :
    dueTrap (.load 15) (State.reset.setI 4081) = some { cause := .dataOutOfRange, info := 4096 } ∧
      dueTrap (.load 15) (State.reset.setI 4080) = none ∧ dueTrap (.drw 0 0 0) (State.reset.setI 0xFFFF) = none := by decide

theorem witness_WaitIsSetAndEndedOnlyByItsEvents :
    got (·.awaited) (perform .step (lastWord 0xF30A)) = some (some 3) ∧
      got (·.awaited) (perform (.setKey 0 true) (State.reset.setAwaited (some 3))) = some none ∧
      got (·.awaited) (perform .restart (State.reset.setAwaited (some 3))) = some none := by decide

theorem witness_SelfJumpStepsToItself : AtSelfJump (placeWord 0x1200 State.reset) :=
  ⟨by decide, by decide, 0x200, by decide, by decide⟩

theorem witness_ResetInvariant : Invariant State.reset := ⟨by decide, by decide, by decide, fun _ h => by cases h⟩

theorem witness_StepKeepsTheInvariant : Invariant State.reset ∧ step State.reset = .next State.reset.advance :=
  ⟨witness_ResetInvariant, rfl⟩

theorem witness_EveryOperationKeepsTheInvariant :
    Invariant State.reset ∧ perform (.loadProgram [0x12]) State.reset = .next (loadProgram [0x12] State.reset) :=
  ⟨witness_ResetInvariant, rfl⟩

theorem witness_OnlyDestinationsAndFlagsAreWritten :
    (∃ t, exec (.orReg 0 1) State.reset = .next t) ∧ mayWriteReg (.orReg 0 1) 15 = false ∧ mayWriteReg (.addReg 0 1) 14 = false ∧
      mayWriteReg (.load 3) 4 = false := ⟨⟨_, rfl⟩, by decide, by decide, by decide⟩

/-- The stored bytes end where memory does; the addresses beside them are outside. -/
theorem witness_OnlyStoredBytesChange :
    got (fun t => (t.byteAt 4092, t.byteAt 4095)) (exec (.ldB 3) ((regs [(3, 7)]).setI 4093)) = some (0, 7) ∧
      4092 < (State.reset.setI 4093).i.toNat ∧ (State.reset.setI 4093).i.toNat + storedCount (.ldB 3) ≤ 4096 := by decide

theorem witness_OnlyTheNamedInstructionsWrite :
    (∃ t, exec .cls State.reset = .next t) ∧ writesI .cls = false ∧ writesStack .cls = false ∧ storedCount .cls = 0 ∧
      writesFb .ret = false ∧ writesDt .cls = false ∧ writesSt .cls = false ∧ writesAwaited .cls = false ∧ drawsRandom .cls = false :=
  ⟨⟨_, rfl⟩, by decide⟩

/-- The sound timer runs and another value stands in its place. -/
theorem witness_SoundTimerIsNeverRead : step (State.reset.setSt 9) = .next (State.reset.setSt 9).advance := rfl

theorem witness_CanonicalMemoryIsUnique :
    Memory.wf (Memory.write [] 0x300 1) = true ∧ Memory.wf (Memory.write (Memory.write [] 0x300 2) 0x300 1) = true ∧
      ∀ a, (Memory.write [] 0x300 1).read a = (Memory.write (Memory.write [] 0x300 2) 0x300 1).read a :=
  ⟨by decide, by decide, fun a => by simp only [Memory.read_write]; split <;> rfl⟩

/-- A stack with some number of entries. -/
def deep (n : Fin 17) : State := State.reset.setStack (Vector.replicate 16 0x202) n

theorem witness_CallPushesTheReturnAddress : (deep 0).sp.val < 16 ∧ (deep 15).sp.val < 16 := by decide

theorem witness_ReturnPopsTheReturnAddress : (deep 1).sp.val = (0 : Fin 16).val + 1 ∧ (deep 16).sp.val = (15 : Fin 16).val + 1 := by decide

theorem witness_StackEndsFault : (deep 16).sp.val = 16 ∧ (deep 0).sp.val = 0 := by decide

theorem witness_NestedCallsReturnWhereTheyStarted :
    (deep 0).sp.val + (List.replicate 16 (0x200 : BitVec 12)).length ≤ 16 ∧ (deep 16).sp.val + ([] : List (BitVec 12)).length ≤ 16 := by decide

/-- The clauses about the bits and about the other registers, in every statement that has them. -/
theorem witness_BitwiseOperationsActOnEveryBit : (7 < 8) ∧ ((14 : Reg) ≠ 15) ∧ ((15 : Reg) ≠ 0) := by decide

theorem witness_AddRegistersSumsAndCarries :
    (14 : Reg) ≠ vf ∧ got (·.reg 15) (exec (.addReg 0 1) (regs [(0, 0xFF), (1, 0)])) = some 0 ∧
      got (·.reg 15) (exec (.addReg 0 1) (regs [(0, 0xFF), (1, 1)])) = some 1 := by decide

theorem witness_RandomIsTheFreshDrawUnderTheMask : (0x0F : Byte).getLsbD 4 = false := by decide

theorem witness_BcdStoresTheThreeDigits : (State.reset.setI 4093).i.toNat ≤ 4093 := by decide

theorem witness_RegisterDumpStoresTheRange : (State.reset.setI 4080).i.toNat + (15 : Reg).val ≤ 4095 ∧ (15 : Reg) ≤ 15 := by decide

theorem witness_RegisterLoadReadsTheRange : (State.reset.setI 4081).i.toNat + (14 : Reg).val ≤ 4095 ∧ (14 : Reg) ≤ 14 ∧ (14 : Reg) < 15 := by decide

theorem witness_DumpThenLoadRestoresRegisters : (State.reset.setI 4090).i.toNat + (5 : Reg).val ≤ 4095 ∧ (5 : Reg) ≤ 5 ∧ (5 : Reg) < 6 := by decide

theorem witness_TransfersBeyondMemoryFault :
    (0 < 3 ∧ 4096 < (State.reset.setI 4094).i.toNat + 3) ∧ (0 < (15 : Reg).val + 1 ∧ 4096 < (State.reset.setI 4081).i.toNat + ((15 : Reg).val + 1)) ∧
      (0 < (1 : BitVec 4).toNat ∧ 4096 < (State.reset.setI 4096).i.toNat + (1 : BitVec 4).toNat) := by decide

/-- V0 and V1 are stored where the next instruction is fetched. -/
def selfWriter : State := (regs [(0, 0x12), (1, 0x0A)]).setI 0x202

theorem witness_StoredWordIsTheNextInstruction :
    Running selfWriter ∧ selfWriter.i.toNat + (1 : Reg).val ≤ 4095 ∧ (1 : Reg).val = (0 : Reg).val + 1 ∧ (1 : Reg) ≤ 1 ∧
      (selfWriter.pc + 2).toNat = selfWriter.i.toNat + (0 : Reg).val ∧
      decode (wordOfBytes (selfWriter.reg 0) (selfWriter.reg 1)) = .ok (.jp 0x20A) := by decide

/-- With no sprite byte I may be anywhere; with some the last lies at 4095. -/
theorem witness_DrawTogglesTheSpritePixels :
    DataInRange (State.reset.setI 0xFFFF) (0 : BitVec 4).toNat ∧ DataInRange (State.reset.setI 4081) (15 : BitVec 4).toNat ∧
      spritePixel (atI 0x300 [0x80] (regs [(0, 63)])) 0 1 1 0 63 = true ∧ spritePixel (atI 0x300 [0x40] (regs [(0, 63)])) 0 1 1 0 0 = false := by decide

theorem witness_RowMaskIsTheShiftedByte : (63 : Byte).toNat ≤ 63 ∧ 64 ≤ (64 : Byte).toNat := by decide

/-- One lit pixel at the right edge, drawn on an empty display. -/
def dot : State := atI 0x300 [0x80] (regs [(0, 63)])

/-- The state after the dot is drawn. -/
def dotDrawn : State := ((dot.advance).setFb (drawn dot 0 1 1).1).setReg vf (flagByte (drawn dot 0 1 1).2)

theorem witness_DrawingTwiceRestoresTheDisplay :
    DataInRange dot (1 : BitVec 4).toNat ∧ exec (.drw 0 1 1) dot = .next dotDrawn ∧ dotDrawn.reg 0 = dot.reg 0 ∧ dotDrawn.reg 1 = dot.reg 1 ∧
      pixel dot.fb 0 63 = false ∧ spritePixel dot 0 1 1 0 63 = true := ⟨by decide, rfl, by decide, by decide, by decide, by decide⟩

theorem witness_KeySkipsTestTheNamedKeyOrFault :
    ((regs [(1, 15)]).reg 1).toNat = (15 : Key).val ∧ 15 < ((regs [(1, 16)]).reg 1).toNat := by decide

theorem witness_SetKeyRecordsAndDelivers : (State.reset.setAwaited (some 3)).awaited = some 3 ∧ State.reset.awaited = none := by decide

theorem witness_ClearProgramZeroesTheProgramRegion :
    Running (clearProgram State.reset) ∧ FetchInRange (clearProgram State.reset) ∧ 512 ≤ (clearProgram State.reset).pc.toNat := by decide

theorem witness_LoadedProgramRunsFromItsFirstWord :
    (List.replicate 3584 (0 : Byte)).length ≤ 3584 ∧ 3584 < (List.replicate 3585 (0 : Byte)).length ∧
      [0x12, 0x00].length ≤ 3584 ∧ decode (wordOfBytes 0x12 0x00) = .ok (.jp 0x200) := by
  simp only [List.length_replicate]
  decide

end Sys2Proof.Tests
end

section
/-! SUPPORT. What each instruction, `Step` and each operation of the host does to `awaited` (10_state.md R31, R36). -/

namespace Sys2Proof.Machine

open Sys2Proof.Safety

variable {s t : State}

/-! ### The shared operations keep `awaited` -/

@[simp] theorem skipIf_awaited (c : Bool) (s : State) : (skipIf c s).awaited = s.awaited := by
  rw [skipIf_eq, State.setPc_awaited]

@[simp] theorem writeWithFlag_awaited (o : VfOrder) (x : Reg) (a f : Byte) (s : State) :
    (writeWithFlag o x a f s).awaited = s.awaited := by
  rw [writeWithFlag_frame, State.setRegs_awaited]

theorem popPc_awaited {p : StackPolicy} (h : popPc p s = .ok t) : t.awaited = s.awaited := by
  unfold popPc at h
  split at h
  · cases h
  · cases h; rfl

theorem push_awaited {p : StackPolicy} {w : Word} (h : push p w s = .ok t) : t.awaited = s.awaited := by
  unfold push at h
  split at h
  · cases h
  · cases h; rfl

/-- A fault taken keeps `awaited`, so only the effect on completion matters. -/
theorem attempt_awaited {i : Instr} {f : State → Except Trap State}
    (h : attempt i s f = .next t) (hf : ∀ u v, f u = .ok v → v.awaited = u.awaited) : t.awaited = s.awaited := by
  obtain ⟨u, hu, ha⟩ | ⟨e, -, ha⟩ := attempt_cases i s f
  · cases ha.symm.trans h
    rw [hf _ _ hu, State.advance_awaited]
  · cases ha.symm.trans h
    rw [State.takeFault_awaited]

/-- The same for a check that can fault, followed by an effect that cannot. -/
theorem attempt_map_awaited {α : Type} {i : Instr} {check : State → Except Trap α} {g : State → α → State}
    (h : attempt i s (fun u => (check u).map (g u)) = .next t)
    (hg : ∀ u a, check u = .ok a → (g u a).awaited = u.awaited) : t.awaited = s.awaited := by
  refine attempt_awaited h fun u v hv => ?_
  cases hc : check u with
  | error e => rw [hc] at hv; cases hv
  | ok a => rw [hc] at hv; cases hv; exact hg u a hc

/-! ### Instructions and `Step` -/

theorem writesAwaited_iff (i : Instr) : writesAwaited i = true ↔ ∃ x, i = .ldVxK x := by
  cases i <;> simp [writesAwaited]

theorem exec_ldVxK_awaited {x : Reg} (h : exec (.ldVxK x) s = .next t) : t.awaited = some x := by
  cases h
  rfl

/-- No instruction but LD Vx, K writes `awaited` (R36). -/
theorem exec_keeps_awaited {i : Instr} (hw : writesAwaited i = false) (h : exec i s = .next t) :
    t.awaited = s.awaited := by
  cases i with
  | ldVxK x => cases hw
  | ret => exact attempt_awaited h fun _ _ => popPc_awaited
  | call nnn =>
    simp only [exec, execCall, execCallWith] at h
    exact attempt_map_awaited h fun _ _ => push_awaited
  | drw | ldB | dump | load =>
    simp only [exec, execDrw, execDrwWith, execLdB, execLdBWith, execDump, execDumpWith, execLoad, execLoadWith] at h
    exact attempt_map_awaited h fun _ _ _ => rfl
  | skp | sknp =>
    simp only [exec, execSkp, execSkpWith, execSknp, execSknpWith] at h
    exact attempt_map_awaited h fun u _ _ => skipIf_awaited _ u
  | seImm | sneImm | seReg | sneReg => cases h; exact skipIf_awaited _ s.advance
  | addReg | subReg | subnReg | shlReg | shrReg => cases h; exact writeWithFlag_awaited _ _ _ _ s.advance
  | _ => cases h; rfl

/-- While a key is awaited the gate of `Step` is closed (40_step.md R91). -/
theorem step_of_awaited {x : Reg} (h : s.awaited = some x) : step s = .next s := by
  obtain ⟨-, hs⟩ | ⟨⟨-, ha⟩, -⟩ := step_cases s
  · exact hs
  · cases h.symm.trans ha

/-- A step keeps `awaited`, or it ran the LD Vx, K at pc and awaits x. -/
theorem step_awaited (h : step s = .next t) :
    t.awaited = s.awaited ∨ ∃ x, decode (wordAtPc s) = .ok (.ldVxK x) ∧ t.awaited = some x := by
  obtain ⟨-, hs⟩ | ⟨-, ⟨-, hs⟩ | ⟨-, ⟨i, hi, hs⟩ | ⟨e, -, hs⟩⟩⟩ := step_cases s
  case inr.inr.inl =>
    rw [hs] at h
    cases hw : writesAwaited i with
    | false => exact .inl (exec_keeps_awaited hw h)
    | true =>
      obtain ⟨x, rfl⟩ := (writesAwaited_iff i).mp hw
      exact .inr ⟨x, hi, exec_ldVxK_awaited h⟩
  all_goals
    cases hs.symm.trans h
    exact .inl rfl

/-! ### The operations of the host -/

@[simp] theorem deliverKey_awaited (k : Key) (s : State) : (deliverKey k s).awaited = none := by
  unfold deliverKey
  split
  · rfl
  · assumption

/-- `SetKey` ends a wait when it is a press, and keeps it when it is a release (R179). -/
theorem setKey_awaited (k : Key) (pressed : Bool) (s : State) :
    (setKey k pressed s).awaited = if pressed then none else s.awaited := by
  cases pressed
  · rfl
  · exact deliverKey_awaited k (s.setKeyFlag k true)

/-- Everything an operation can do to `awaited`: keep it, end the wait by a press or a reset, or set it by a step of
LD Vx, K (R31). -/
theorem perform_awaited {o : Operation} (h : perform o s = .next t) :
    t.awaited = s.awaited ∨
    (t.awaited = none ∧ (o = .restart ∨ o = .fullReset ∨ o = .initializeCore ∨ ∃ k, o = .setKey k true)) ∨
    (o = .step ∧ ∃ x, decode (wordAtPc s) = .ok (.ldVxK x) ∧ t.awaited = some x) := by
  cases o with
  | step => exact (step_awaited h).imp_right fun hx => .inr ⟨rfl, hx⟩
  | tickTimers => cases h; exact .inl rfl
  | setKey k pressed =>
    cases h
    cases pressed with
    | false => exact .inl (setKey_awaited k false s)
    | true => exact .inr (.inl ⟨setKey_awaited k true s, by simp⟩)
  | initializeCore | restart | fullReset => cases h; exact .inr (.inl ⟨rfl, by simp⟩)
  | clearProgram => cases h; exact .inl rfl
  | loadProgram bytes =>
    simp only [perform, operate] at h
    split at h
    · cases h; exact .inl rfl
    · cases h

/-- Settles O12: of what an operation can do to `awaited` (`perform_awaited`), a change to an index leaves only the step of
LD Vx, K, and a change to NONE only the press and the three resets. -/
theorem waitIsSetAndEndedOnlyByItsEvents : Obligations.WaitIsSetAndEndedOnlyByItsEvents := by
  refine ⟨fun o s t h hne => ?_, fun s x => step_of_awaited⟩
  obtain hkept | ⟨hnone, ho⟩ | ⟨ho, x, hdec, hsome⟩ := perform_awaited h
  · exact absurd hkept hne
  · exact ⟨fun x hx => (by cases hnone.symm.trans hx), fun _ => ho⟩
  · refine ⟨fun y hy => ?_, fun hnone => by cases hnone.symm.trans hsome⟩
    cases hsome.symm.trans hy
    exact ⟨ho, hdec⟩

end Sys2Proof.Machine
end

section
/-! SUPPORT. What `Step` does with an unmatched word (40_step.md R95), and what the operations of the host do to the timers and
the keys while a key is awaited (R91). -/

namespace Sys2Proof.Machine

open Sys2Proof.Safety

variable {s : State}

/-! ### The unmatched word -/

/-- With both gates open and the fetch inside memory, a word no row matches leaves only the advance of pc. -/
theorem step_of_unmatched (hrun : Running s) (hpc : FetchInRange s) (hdec : ∀ i, decode (wordAtPc s) ≠ .ok i) :
    step s = .next s.advance := by
  obtain ⟨hgate, -⟩ | ⟨-, ⟨hout, -⟩ | ⟨-, ⟨i, hi, -⟩ | ⟨e, -, hs⟩⟩⟩ := step_cases s
  · exact absurd hrun (not_and_or.mpr hgate)
  · exact absurd hpc (Nat.not_le.mpr hout)
  · exact absurd hi (hdec i)
  · exact hs

/-- Settles O6: the advance of pc is the only change of a step on an unmatched word. -/
theorem stepSkipsUnmatchedWord : Obligations.StepSkipsUnmatchedWord :=
  fun _ => step_of_unmatched

/-! ### The timers and the keys -/

/-- A tick takes one from a timer, down to 0 (60_exceptions.md R178). -/
theorem tickDown_toNat (b : Byte) : (tickDown b).toNat = b.toNat - 1 := by
  unfold tickDown
  split
  case isTrue h => rw [h]; rfl
  case isFalse h =>
    have hne : b.toNat ≠ 0 := fun hz => h (BitVec.eq_of_toNat_eq hz)
    exact BitVec.toNat_sub_of_le (BitVec.le_def.mpr (Nat.one_le_iff_ne_zero.mpr hne))

@[simp] theorem deliverKey_keys (k : Key) (s : State) : (deliverKey k s).keys = s.keys := by
  unfold deliverKey
  split <;> rfl

/-- `SetKey` records the flag of its key, press or release, and of no other (R179). -/
@[simp] theorem setKey_keys (k : Key) (pressed : Bool) (s : State) :
    (setKey k pressed s).keys = s.keys.set k pressed := by
  cases pressed
  · rfl
  · exact deliverKey_keys k (s.setKeyFlag k true)

theorem setKey_records (k : Key) (pressed : Bool) (s : State) : (setKey k pressed s).keys[k] = pressed := by
  simp only [setKey_keys, Fin.getElem_fin, Vector.getElem_set_self]

/-- Settles O7: of the four operations only `Step` reads the gate (`step_of_awaited`); a tick does not touch `awaited`, and
`SetKey` ends the wait exactly when it is a press (`setKey_awaited`). -/
theorem awaitingKeyBlocksOnlyStep : Obligations.AwaitingKeyBlocksOnlyStep := by
  intro s x k h
  refine ⟨step_of_awaited h, ⟨tickTimers s, rfl, ?dt, ?st, h⟩, ⟨setKey k false s, rfl, setKey_records k false s, ?release⟩,
    ⟨setKey k true s, rfl, setKey_records k true s, setKey_awaited k true s⟩⟩
  case dt => exact tickDown_toNat s.dt
  case st => exact tickDown_toNat s.st
  case release => exact (setKey_awaited k false s).trans h

end Sys2Proof.Machine
end

section
/-! SUPPORT. The jumps and the four register skips (41_control_flow.md R101, R103 to R107): where each leaves pc, and that it
writes nothing else. -/

namespace Sys2Proof.Machine

/-! ### The target of a jump -/

theorem addressOf_toNat (nnn : BitVec 12) : (addressOf nnn).toNat = nnn.toNat :=
  BitVec.toNat_setWidth_of_le (by decide)

theorem wide_toNat (b : Byte) : (wide b).toNat = b.toNat :=
  BitVec.toNat_setWidth_of_le (by decide)

/-- A 12-bit operand plus a byte stays below 65536, so the 16-bit sum does not wrap. -/
theorem addressOf_add_wide_toNat (nnn : BitVec 12) (b : Byte) :
    (addressOf nnn + wide b).toNat = nnn.toNat + b.toNat := by
  have hnnn : nnn.toNat < 4096 := nnn.isLt
  have hb : b.toNat < 256 := b.isLt
  rw [BitVec.toNat_add_of_lt (by rw [addressOf_toNat, wide_toNat]; omega), addressOf_toNat, wide_toNat]

/-- A jump writes pc over the advance: the target does not depend on where the jump stood. -/
theorem advance_setPc (s : State) (w : Word) : s.advance.setPc w = { s with pc := w } := rfl

theorem exec_jp (nnn : BitVec 12) (s : State) : exec (.jp nnn) s = .next { s with pc := addressOf nnn } :=
  congrArg Host.Outcome.next (advance_setPc s _)

theorem exec_jpV0 (nnn : BitVec 12) (s : State) :
    exec (.jpV0 nnn) s = .next { s with pc := addressOf nnn + wide (s.reg 0) } :=
  congrArg Host.Outcome.next (advance_setPc s _)

/-- Settles O22: `exec_jp` gives the next state, and widening the operand keeps its value. -/
theorem jumpGoesToItsOperand : Obligations.JumpGoesToItsOperand :=
  fun nnn s => ⟨_, exec_jp nnn s, addressOf_toNat nnn, rfl⟩

/-- Settles O23: `exec_jpV0` gives the next state, and its 16-bit sum is the sum of the numbers
(`addressOf_add_wide_toNat`). -/
theorem jumpWithOffsetAddsRegisterZero : Obligations.JumpWithOffsetAddsRegisterZero :=
  fun nnn s => ⟨_, exec_jpV0 nnn s, addressOf_add_wide_toNat nnn (s.reg 0), rfl⟩

/-! ### The skips on a comparison -/

theorem skipIf_beq_advance (a b : Byte) (s : State) :
    skipIf (a == b) s.advance = { s with pc := if a = b then s.pc + 4 else s.pc + 2 } := by
  simp only [skipIf_advance, beq_iff_eq]

theorem skipIf_bne_advance (a b : Byte) (s : State) :
    skipIf (a != b) s.advance = { s with pc := if a = b then s.pc + 2 else s.pc + 4 } := by
  simp only [skipIf_advance, bne_iff_ne, ne_eq, ite_not]

/-- Settles O24: each of the four is an advance and a skip on one comparison of the operands, equal for SE and unequal for
SNE. -/
theorem skipsAdvanceByTwoOrFour : Obligations.SkipsAdvanceByTwoOrFour := by
  intro x y nn s
  refine ⟨?seImm, ?sneImm, ?seReg, ?sneReg⟩
  case seImm => exact congrArg Host.Outcome.next (skipIf_beq_advance (s.reg x) nn s)
  case sneImm => exact congrArg Host.Outcome.next (skipIf_bne_advance (s.reg x) nn s)
  case seReg => exact congrArg Host.Outcome.next (skipIf_beq_advance (s.reg x) (s.reg y) s)
  case sneReg => exact congrArg Host.Outcome.next (skipIf_bne_advance (s.reg x) (s.reg y) s)

end Sys2Proof.Machine
end

section
/-! SUPPORT. The instructions that write one register and no flag (42_alu.md R120 to R122): the state each completes in, and the
frame they share. -/

namespace Sys2Proof.Machine

/-! ### What a write to one register leaves -/

theorem State.reg_setReg_self (s : State) (x : Reg) (b : Byte) : (s.setReg x b).reg x = b := by
  rw [State.reg_setReg, if_pos rfl]

theorem State.reg_setReg_of_ne (s : State) {x r : Reg} (b : Byte) (h : r ≠ x) : (s.setReg x b).reg r = s.reg r := by
  rw [State.reg_setReg, if_neg h]

/-- An instruction whose one effect after the advance is a write of `b` to V[x] leaves every other register and all else. -/
theorem exec_setReg_spec {i : Instr} {x : Reg} {b : Byte} {s : State} (h : exec i s = .next (s.advance.setReg x b)) :
    ∃ t, exec i s = .next t ∧ t.reg x = b ∧ (∀ r, r ≠ x → t.reg r = s.reg r) ∧
      t = { s with v := t.v, pc := s.pc + 2 } :=
  ⟨_, h, State.reg_setReg_self s.advance x b, fun _ hr => State.reg_setReg_of_ne s.advance b hr, rfl⟩

/-! ### The two loads and the immediate addition -/

theorem exec_ldImm (x : Reg) (nn : Byte) (s : State) : exec (.ldImm x nn) s = .next (s.advance.setReg x nn) :=
  retire_eq s fun t => t.setReg x nn

theorem exec_addImm (x : Reg) (nn : Byte) (s : State) :
    exec (.addImm x nn) s = .next (s.advance.setReg x (s.reg x + nn)) :=
  retire_eq s fun t => t.setReg x (t.reg x + nn)

theorem exec_ldReg (x y : Reg) (s : State) : exec (.ldReg x y) s = .next (s.advance.setReg x (s.reg y)) :=
  retire_eq s fun t => t.setReg x (t.reg y)

/-- Settles O29: the one effect is the write of the immediate (`exec_ldImm`). -/
theorem loadImmediateSetsTheRegister : Obligations.LoadImmediateSetsTheRegister :=
  fun x nn s => exec_setReg_spec (exec_ldImm x nn s)

/-- Settles O30: the one effect is the write of the 8-bit sum (`exec_addImm`), whose number is the sum modulo 256; VF is written
only as V[x]. -/
theorem addImmediateWrapsWithoutFlag : Obligations.AddImmediateWrapsWithoutFlag := by
  intro x nn s
  obtain ⟨t, hexec, hx, hframe⟩ := exec_setReg_spec (exec_addImm x nn s)
  have hsum : (t.reg x).toNat = ((s.reg x).toNat + nn.toNat) % 256 :=
    (congrArg BitVec.toNat hx).trans (BitVec.toNat_add (s.reg x) nn)
  exact ⟨t, hexec, hsum, hframe⟩

/-- Settles O31: the one effect is the write of the old V[y] (`exec_ldReg`). -/
theorem registerTransferCopies : Obligations.RegisterTransferCopies :=
  fun x y s => exec_setReg_spec (exec_ldReg x y s)

end Sys2Proof.Machine
end

section
/-! SUPPORT. The instructions that write I alone (43_memory_transfer.md R140 to R142): the state each completes in, the number it
leaves in I, and the frame they share. -/

namespace Sys2Proof.Machine

/-- An instruction whose one effect after the advance is a write of `w` to I leaves the number of `w` there and keeps all
else. -/
theorem exec_setI_spec {i : Instr} {w : Word} {n : Nat} {s : State} (h : exec i s = .next (s.advance.setI w))
    (hw : w.toNat = n) :
    ∃ t, exec i s = .next t ∧ t.i.toNat = n ∧ t = { s with i := t.i, pc := s.pc + 2 } :=
  ⟨_, h, by rw [State.setI_i, hw], rfl⟩

theorem exec_ldI (nnn : BitVec 12) (s : State) : exec (.ldI nnn) s = .next (s.advance.setI (addressOf nnn)) :=
  retire_eq s fun t => t.setI (addressOf nnn)

theorem exec_addI (x : Reg) (s : State) : exec (.addI x) s = .next (s.advance.setI (s.i + wide (s.reg x))) :=
  retire_eq s fun t => t.setI (t.i + wide (t.reg x))

theorem exec_ldF (x : Reg) (s : State) : exec (.ldF x) s = .next (s.advance.setI (wide (s.reg x) * 5)) :=
  retire_eq s fun t => t.setI (wide (t.reg x) * 5)

theorem add_wide_toNat (w : Word) (b : Byte) : (w + wide b).toNat = (w.toNat + b.toNat) % 65536 := by
  rw [BitVec.toNat_add, wide_toNat]

/-- Five times a byte is at most 1275, so the 16-bit product does not wrap. -/
theorem wide_mul_five_toNat (b : Byte) : (wide b * 5).toNat = b.toNat * 5 := by
  have hb : b.toNat < 256 := b.isLt
  have hfive : (5 : Word).toNat = 5 := rfl
  rw [BitVec.toNat_mul_of_lt (by rw [wide_toNat, hfive]; omega), wide_toNat, hfive]

/-- Settles O39: the one effect is the write of the widened operand (`exec_ldI`), and widening keeps its value. -/
theorem loadAddressRegisterZeroExtends : Obligations.LoadAddressRegisterZeroExtends :=
  fun nnn s => exec_setI_spec (exec_ldI nnn s) (addressOf_toNat nnn)

/-- Settles O40: the one effect is the write of the 16-bit sum (`exec_addI`), whose number is the sum modulo 65536; the frame
keeps VF. -/
theorem addToAddressRegisterWraps : Obligations.AddToAddressRegisterWraps :=
  fun x s => exec_setI_spec (exec_addI x s) (add_wide_toNat s.i (s.reg x))

/-- Settles O41: the one effect is the write of the 16-bit product (`exec_ldF`), which is the product of the numbers
(`wide_mul_five_toNat`). -/
theorem fontAddressIsFiveTimesTheValue : Obligations.FontAddressIsFiveTimesTheValue :=
  fun x s => exec_setI_spec (exec_ldF x s) (wide_mul_five_toNat (s.reg x))

end Sys2Proof.Machine
end

section
/-! SUPPORT. CLS (44_graphics.md R150): the state it completes in, and what a pixel row reads there. -/

namespace Sys2Proof.Machine

theorem exec_cls (s : State) : exec .cls s = .next (s.advance.setFb (Vector.replicate 32 0)) :=
  retire_eq s fun t => t.setFb (Vector.replicate 32 0)

theorem State.setFb_replicate_row (s : State) (w : Row) (r : Fin 32) : (s.setFb (Vector.replicate 32 w)).fb[r] = w := by
  rw [State.setFb_fb, Fin.getElem_fin, Vector.getElem_replicate]

/-- Settles O48: the one effect after the advance is the write of a framebuffer of zero rows (`exec_cls`); no register is
written, VF included. -/
theorem clearDisplayZeroesEveryRow : Obligations.ClearDisplayZeroesEveryRow :=
  fun s => ⟨_, exec_cls s, State.setFb_replicate_row s.advance 0, rfl⟩

end Sys2Proof.Machine
end

section
/-! SUPPORT. The transfers between a register and a timer (45_timers_keypad.md R160 to R162): the state each completes in, and
when the sound output is active. -/

namespace Sys2Proof.Machine

theorem exec_ldVxDt (x : Reg) (s : State) : exec (.ldVxDt x) s = .next (s.advance.setReg x s.dt) :=
  retire_eq s fun t => t.setReg x t.dt

theorem exec_ldDtVx (x : Reg) (s : State) : exec (.ldDtVx x) s = .next (s.advance.setDt (s.reg x)) :=
  retire_eq s fun t => t.setDt (t.reg x)

theorem exec_ldStVx (x : Reg) (s : State) : exec (.ldStVx x) s = .next (s.advance.setSt (s.reg x)) :=
  retire_eq s fun t => t.setSt (t.reg x)

theorem soundActive_iff (s : State) : soundActive s = true ↔ s.st ≠ 0 := bne_iff_ne

/-- Settles O52: each is an advance and one write, of V[x] (`exec_ldVxDt`), of DT (`exec_ldDtVx`) or of ST (`exec_ldStVx`); the
sound output reads the ST just written (`soundActive_iff`). -/
theorem timerTransfersCopy : Obligations.TimerTransfersCopy := by
  intro x s
  refine ⟨?ldVxDt, ?ldDtVx, ?ldStVx⟩
  case ldVxDt => exact exec_setReg_spec (exec_ldVxDt x s)
  case ldDtVx => exact ⟨_, exec_ldDtVx x s, State.setDt_dt s.advance (s.reg x), rfl⟩
  case ldStVx =>
    have hst : (s.advance.setSt (s.reg x)).st = s.reg x := State.setSt_st s.advance (s.reg x)
    have hsound : soundActive (s.advance.setSt (s.reg x)) = true ↔ s.reg x ≠ 0 := by rw [soundActive_iff, hst]
    exact ⟨_, exec_ldStVx x s, hst, hsound, rfl⟩

end Sys2Proof.Machine
end

section
/-! SUPPORT. Schedules of ticks (60_exceptions.md R178, R186): how a schedule goes on after an operation that completes, and what
one tick leaves in each timer. -/

namespace Sys2Proof.Machine

/-- A schedule goes on from the state its first operation completes in (R186). -/
theorem performAll_cons_of_next {o : Operation} {s t : State} (h : perform o s = .next t) (os : List Operation) :
    performAll (o :: os) s = performAll os t := by
  simp only [performAll, inOrder, h]

theorem perform_tickTimers (s : State) : perform .tickTimers s = .next (tickTimers s) := rfl

theorem tickTimers_dt_toNat (s : State) : (tickTimers s).dt.toNat = s.dt.toNat - 1 := tickDown_toNat s.dt

theorem tickTimers_st_toNat (s : State) : (tickTimers s).st.toNat = s.st.toNat - 1 := tickDown_toNat s.st

/-- Settles O55, by induction on the number of ticks from any state: the first tick takes one from each timer, down to 0, and
writes nothing else; the rest of the schedule runs from the state it leaves (`performAll_cons_of_next`). -/
theorem ticksCountBothTimersDownToZero : Obligations.TicksCountBothTimersDownToZero := by
  intro n
  induction n with
  | zero => exact fun s => ⟨s, rfl, rfl, rfl, rfl⟩
  | succ n ih =>
    intro s
    obtain ⟨t, hrun, hdt, hst, hframe⟩ := ih (tickTimers s)
    refine ⟨t, (performAll_cons_of_next (perform_tickTimers s) _).trans hrun, ?dt, ?st, hframe⟩
    case dt => rw [hdt, tickTimers_dt_toNat, Nat.sub_sub, Nat.add_comm]
    case st => rw [hst, tickTimers_st_toNat, Nat.sub_sub, Nat.add_comm]

end Sys2Proof.Machine
end

section
/-! SUPPORT. The decoder and the encoder are inverse to each other (30_encoding.md section 4), and the words no row matches are
those of the six classes of section 3 (R77). Each fact is proved once per operand format or per table of minor opcodes. -/

namespace Sys2Proof

/-! ### Decoding an encoded instruction -/

/-- Format by format (R72) the fields of the encoded word are the top nibble and the operands, so the decoder takes the row
of the instruction. -/
theorem decodeRow_encode (i : Instr) : decodeRow (encode i) = some i := by
  cases i with
  | cls | ret => decide
  | jp nnn | call nnn | ldI nnn | jpV0 nnn => simp [encode, decodeRow, fields_encodeA]
  | seImm x nn | sneImm x nn | ldImm x nn | addImm x nn | rnd x nn => simp [encode, decodeRow, fields_encodeXI]
  | seReg x y | sneReg x y | drw x y n => simp [encode, decodeRow, fields_encodeXYN]
  | ldReg x y | orReg x y | andReg x y | xorReg x y | addReg x y | subReg x y | subnReg x y | shlReg x y | shrReg x y =>
    simp [encode, decodeRow, decodeAlu, fields_encodeXYN]
  | skp x | sknp x => simp [encode, decodeRow, decodeKey, fields_encodeXI]
  | ldVxDt x | ldDtVx x | ldStVx x | ldVxK x | addI x | ldF x | ldB x | dump x | load x =>
    simp [encode, decodeRow, decodeMisc, fields_encodeXI]

theorem decode_ok_iff {w : Word} {i : Instr} : decode w = .ok i ↔ decodeRow w = some i := by
  unfold decode
  cases decodeRow w <;> simp

theorem decode_error_iff {w : Word} : decode w = .error (.unmatched w) ↔ decodeRow w = none := by
  unfold decode
  cases decodeRow w <;> simp

theorem decode_encode (i : Instr) : decode (encode i) = .ok i := decode_ok_iff.mpr (decodeRow_encode i)

/-- The two bytes of a word at the front of a stream are read back as the word. -/
theorem decodeBytes_of_decode {hi lo : Byte} {i : Instr} (h : decode (wordOfBytes hi lo) = .ok i) (rest : List Byte) :
    decodeBytes (hi :: lo :: rest) = .ok (i, rest) := by
  simp only [decodeBytes, h]

/-- Settles O1: on words by the operand formats (`decodeRow_encode`); on bytes because a word is the two bytes it is stored as
(`wordOfBytes_bytes`). -/
theorem decodeOfEncodeIsTheInstruction : Obligations.DecodeOfEncodeIsTheInstruction := fun i rest =>
  ⟨decode_encode i, decodeBytes_of_decode (by rw [wordOfBytes_bytes, decode_encode]) rest⟩

/-! ### Encoding a decoded word -/

theorem encode_of_decodeExact {w : Word} {i : Instr} (h : decodeExact w = some i) : encode i = w := by
  unfold decodeExact at h
  split at h
  · cases h; exact .symm ‹_›
  · split at h <;> cases h
    exact .symm ‹_›

theorem encode_of_decodeAlu {n : BitVec 4} {x y : Reg} {i : Instr} (h : decodeAlu n x y = some i) :
    encode i = encodeXYN 0x8#4 x y n := by
  unfold decodeAlu at h
  split_ifs at h <;> cases h <;> subst n <;> rfl

theorem encode_of_decodeKey {nn : Byte} {x : Reg} {i : Instr} (h : decodeKey nn x = some i) :
    encode i = encodeXI 0xE#4 x nn := by
  unfold decodeKey at h
  split_ifs at h <;> cases h <;> subst nn <;> rfl

theorem encode_of_decodeMisc {nn : Byte} {x : Reg} {i : Instr} (h : decodeMisc nn x = some i) :
    encode i = encodeXI 0xF#4 x nn := by
  unfold decodeMisc at h
  split_ifs at h <;> cases h <;> subst nn <;> rfl

/-- The sixteen values of a top nibble. -/
theorem nibble_cases (f : BitVec 4) :
    f = 0x0#4 ∨ f = 0x1#4 ∨ f = 0x2#4 ∨ f = 0x3#4 ∨ f = 0x4#4 ∨ f = 0x5#4 ∨ f = 0x6#4 ∨ f = 0x7#4 ∨ f = 0x8#4 ∨
      f = 0x9#4 ∨ f = 0xA#4 ∨ f = 0xB#4 ∨ f = 0xC#4 ∨ f = 0xD#4 ∨ f = 0xE#4 ∨ f = 0xF#4 := by
  revert f
  decide

/-- Top nibble by top nibble, the operands the decoder takes are the fields of the word, of which no format drops a bit. -/
theorem encode_of_decodeRow {w : Word} {i : Instr} (h : decodeRow w = some i) : encode i = w := by
  have hA := encodeA_fields w
  have hXI := encodeXI_fields w
  have hXYN := encodeXYN_fields w
  rcases nibble_cases (fieldOp w) with
      op | op | op | op | op | op | op | op | op | op | op | op | op | op | op | op <;>
    rw [op] at hA hXI hXYN <;>
    simp only [decodeRow, op, reduceIte, BitVec.reduceEq, Option.some.injEq, Option.ite_none_right_eq_some] at h
  · exact encode_of_decodeExact h
  · subst h; exact hA
  · subst h; exact hA
  · subst h; exact hXI
  · subst h; exact hXI
  · obtain ⟨hn, rfl⟩ := h
    rw [hn] at hXYN
    exact hXYN
  · subst h; exact hXI
  · subst h; exact hXI
  · exact (encode_of_decodeAlu h).trans hXYN
  · obtain ⟨hn, rfl⟩ := h
    rw [hn] at hXYN
    exact hXYN
  · subst h; exact hA
  · subst h; exact hA
  · subst h; exact hXI
  · subst h; exact hXYN
  · exact (encode_of_decodeKey h).trans hXI
  · exact (encode_of_decodeMisc h).trans hXI

/-- Settles O2: `encode_of_decodeRow`. -/
theorem encodeOfDecodeIsTheWord : Obligations.EncodeOfDecodeIsTheWord :=
  fun _ _ h => encode_of_decodeRow (decode_ok_iff.mp h)

/-! ### The unmatched words -/

/-- A table of minor opcodes gives no row exactly when no entry matches. -/
theorem ite_some_eq_none_iff {p : Prop} [Decidable p] {i : Instr} {o : Option Instr} :
    (if p then some i else o) = none ↔ ¬p ∧ o = none := by
  split <;> simp [*]

theorem decodeAlu_eq_none_iff (n : BitVec 4) (x y : Reg) :
    decodeAlu n x y = none ↔ [0x8, 0x9, 0xA, 0xB, 0xC, 0xD, 0xF].contains n.toNat = true := by
  simp only [decodeAlu, ite_some_eq_none_iff]
  clear x y
  revert n
  decide

theorem decodeKey_eq_none_iff (nn : Byte) (x : Reg) :
    decodeKey nn x = none ↔ [0x9E, 0xA1].contains nn.toNat = false := by
  simp [decodeKey, ite_some_eq_none_iff, ← BitVec.toNat_inj]

theorem decodeMisc_eq_none_iff (nn : Byte) (x : Reg) :
    decodeMisc nn x = none ↔ [0x07, 0x0A, 0x15, 0x18, 0x1E, 0x29, 0x33, 0x55, 0x65].contains nn.toNat = false := by
  simp [decodeMisc, ite_some_eq_none_iff, ← BitVec.toNat_inj]

/-- The low byte of a word in its nibbles. -/
theorem low_nibbles_toNat (w : Word) : 16 * (w.extractLsb' 4 4).toNat + (fieldN w).toNat = (fieldNN w).toNat := by
  simp [fieldN, fieldNN, BitVec.extractLsb'_toNat, Nat.shiftRight_eq_div_pow]
  omega

/-- A word whose top nibble is 0 in its second nibble and its low byte. -/
theorem toNat_of_fieldOp_zero {w : Word} (h : fieldOp w = 0x0#4) :
    w.toNat = 256 * (w.extractLsb' 8 4).toNat + (fieldNN w).toNat := by
  have h0 : w.toNat / 4096 % 16 = 0 := by
    simpa [fieldOp, BitVec.extractLsb'_toNat, Nat.shiftRight_eq_div_pow] using congrArg BitVec.toNat h
  have hw : w.toNat < 65536 := w.isLt
  simp [fieldNN, BitVec.extractLsb'_toNat, Nat.shiftRight_eq_div_pow]
  omega

theorem decodeExact_eq_none_iff {w : Word} (h : fieldOp w = 0x0#4) :
    decodeExact w = none ↔ [0x0E0, 0x0EE].contains (256 * (w.extractLsb' 8 4).toNat + (fieldNN w).toNat) = false := by
  rw [← toNat_of_fieldOp_zero h]
  simp [decodeExact, ite_some_eq_none_iff, ← BitVec.toNat_inj]

/-- Top nibble by top nibble, the row is missing exactly in the class of R77 with that top nibble, if there is one. -/
theorem decodeRow_eq_none_iff (w : Word) : decodeRow w = none ↔ unmatchedWord w = true := by
  have hop : w.extractLsb' 12 4 = fieldOp w := rfl
  have hn : w.extractLsb' 0 4 = fieldN w := rfl
  have hn0 : fieldN w = 0x0#4 ↔ (fieldN w).toNat = 0 := BitVec.toNat_inj.symm
  simp only [decodeRow, unmatchedWord, unmatchedNibbles, hop, hn, low_nibbles_toNat]
  rcases nibble_cases (fieldOp w) with
      op | op | op | op | op | op | op | op | op | op | op | op | op | op | op | op <;>
    simp [op, hn0, decodeExact_eq_none_iff, decodeAlu_eq_none_iff, decodeKey_eq_none_iff, decodeMisc_eq_none_iff,
      -BitVec.extractLsb'_toNat]

/-- Settles O3: an instruction is read exactly where a row is found, and none is exactly in the six classes
(`decodeRow_eq_none_iff`). -/
theorem decodeRefusesExactlyUnmatchedWords : Obligations.DecodeRefusesExactlyUnmatchedWords := by
  intro w
  refine ⟨decode_error_iff.trans (decodeRow_eq_none_iff w), ?_⟩
  have hsome : (∃ i, decode w = .ok i) ↔ decodeRow w ≠ none := by
    simp only [decode_ok_iff, Option.ne_none_iff_exists']
  rw [hsome, ne_eq, decodeRow_eq_none_iff]
  simp [WellFormedWord]

/-- Settles O4: each of the ten streams is one word, and the decoder is evaluated on it. -/
theorem wordsOfEveryFamilyDecode : Obligations.WordsOfEveryFamilyDecode := by
  unfold Obligations.WordsOfEveryFamilyDecode
  decide

end Sys2Proof
end

section
/-! SUPPORT. What an instruction does in any state, said once: the fault it is due (60_exceptions.md R171, 40_step.md R98), or the state
it completes in, in the named operations. The frame, the invariant and the fault statements go through `exec_eq`. -/

namespace Sys2Proof.Machine

open Sys2Proof.Safety

/-! ### The shared checks raise the fault of the table -/

/-- A check in the fault's terms: the trap that is due, or the value it passes on. -/
def checked {α : Type} (d : Option Trap) (a : α) : Except Trap α := d.elim (.ok a) .error

theorem checked_map {α β : Type} (d : Option Trap) (a : α) (f : α → β) : (checked d a).map f = checked d (f a) := by
  cases d <;> rfl

theorem dataTrap_eq_none {s : State} {n : Nat} (h : DataInRange s n) : dataTrap s n = none := if_pos h

/-- The table's info, the lowest out-of-range address, is the larger of I and 4096. -/
theorem dataTrap_eq_some {s : State} {n : Nat} (h : ¬DataInRange s n) :
    dataTrap s n = some { cause := .dataOutOfRange, info := max s.i.toNat 4096 } := by
  rw [dataTrap, if_neg h, Nat.max_comm]
  rfl

theorem checkData_eq (s : State) (n : Nat) : checkData .fault s.i n = checked (dataTrap s n) () := by
  by_cases h : DataInRange s n
  · rw [dataTrap_eq_none h, checkData_ok h]
    rfl
  · rw [dataTrap_eq_some h, checkData_error (by omega) (by omega)]
    rfl

/-- The key the low four bits of a register name: for a value of at most 15, the one the value names (R166). -/
def namedKey (s : State) (x : Reg) : Key := Fin.ofNat 16 (s.reg x).toNat

theorem namedKey_eq {s : State} {x : Reg} {k : Key} (h : (s.reg x).toNat = k.val) : namedKey s x = k :=
  Fin.ext (by rw [namedKey, h, Fin.val_ofNat, Nat.mod_eq_of_lt k.isLt])

theorem keyTrap_eq_none {s : State} {x : Reg} (h : (s.reg x).toNat ≤ 15) : keyTrap s x = none := if_pos h

theorem keyTrap_eq_some {s : State} {x : Reg} (h : 15 < (s.reg x).toNat) :
    keyTrap s x = some { cause := .keyIndexOutOfRange, info := (s.reg x).toNat } := if_neg (Nat.not_le.mpr h)

theorem keyIndex_eq (s : State) (x : Reg) : keyIndex .fault (s.reg x) = checked (keyTrap s x) (namedKey s x) := by
  by_cases h : (s.reg x).toNat ≤ 15
  · obtain ⟨k, hk⟩ : ∃ k : Key, (s.reg x).toNat = k.val := ⟨⟨(s.reg x).toNat, by omega⟩, rfl⟩
    rw [keyTrap_eq_none h, keyIndex_ok hk, namedKey_eq hk]
    rfl
  · rw [keyTrap_eq_some (by omega), keyIndex_error (by omega)]
    rfl

/-- The slot below the stack pointer, where RET reads (R100). -/
def topSlot (s : State) : Fin 16 := Fin.ofNat 16 (s.sp.val + 15)

/-- The slot at the stack pointer, where CALL writes (R102). -/
def freeSlot (s : State) : Fin 16 := Fin.ofNat 16 s.sp.val

theorem popPc_eq (s : State) :
    popPc .fault s.advance =
      checked (dueTrap .ret s) ((s.setStack s.stack (topSlot s).castSucc).setPc s.stack[topSlot s]) := by
  by_cases h : s.sp.val = 0
  · rw [popPc_empty (s := s.advance) h, dueTrap, if_pos h]
    rfl
  · rw [popPc, if_neg (fun hp => h hp.2), dueTrap, if_neg h]
    rfl

theorem push_eq (nnn : BitVec 12) (s : State) :
    push .fault (s.pc + 2) s.advance =
      checked (dueTrap (.call nnn) s) (s.advance.setStack (s.stack.set (freeSlot s) (s.pc + 2)) (freeSlot s).succ) := by
  by_cases h : s.sp.val = 16
  · rw [push_full (s := s.advance) _ h, dueTrap, if_pos h]
    rfl
  · rw [push, if_neg (fun hp => h hp.2), dueTrap, if_neg h]
    rfl

/-! ### The state an instruction completes in -/

/-- The state an instruction leaves when it is due no fault. -/
def completed : Instr → State → State
  | .cls, s => s.advance.setFb (Vector.replicate 32 0)
  | .ret, s => (s.setStack s.stack (topSlot s).castSucc).setPc s.stack[topSlot s]
  | .jp nnn, s => s.setPc (addressOf nnn)
  | .call nnn, s => (s.setStack (s.stack.set (freeSlot s) (s.pc + 2)) (freeSlot s).succ).setPc (addressOf nnn)
  | .seImm x nn, s => s.setPc (if s.reg x = nn then s.pc + 4 else s.pc + 2)
  | .sneImm x nn, s => s.setPc (if s.reg x = nn then s.pc + 2 else s.pc + 4)
  | .seReg x y, s => s.setPc (if s.reg x = s.reg y then s.pc + 4 else s.pc + 2)
  | .sneReg x y, s => s.setPc (if s.reg x = s.reg y then s.pc + 2 else s.pc + 4)
  | .ldImm x nn, s => s.advance.setReg x nn
  | .addImm x nn, s => s.advance.setReg x (s.reg x + nn)
  | .ldReg x y, s => s.advance.setReg x (s.reg y)
  | .orReg x y, s => s.advance.setReg x (s.reg x ||| s.reg y)
  | .andReg x y, s => s.advance.setReg x (s.reg x &&& s.reg y)
  | .xorReg x y, s => s.advance.setReg x (s.reg x ^^^ s.reg y)
  | .addReg x y, s => (s.advance.setReg x (s.reg x + s.reg y)).setReg vf (carryOut (s.reg x) (s.reg y))
  | .subReg x y, s => (s.advance.setReg x (s.reg x - s.reg y)).setReg vf (noBorrow (s.reg x) (s.reg y))
  | .subnReg x y, s => (s.advance.setReg x (s.reg y - s.reg x)).setReg vf (noBorrow (s.reg y) (s.reg x))
  | .shlReg x y, s => (s.advance.setReg x (s.reg y <<< 1)).setReg vf (bitSeven (s.reg y))
  | .shrReg x y, s => (s.advance.setReg x (s.reg y >>> 1)).setReg vf (bitZero (s.reg y))
  | .ldI nnn, s => s.advance.setI (addressOf nnn)
  | .jpV0 nnn, s => s.setPc (addressOf nnn + wide (s.reg 0))
  | .rnd x nn, s => (s.advance.setReg x (Config.randomByte s.draws &&& nn)).countDraw
  | .drw x y n, s => (s.advance.setFb (drawn s x y n).1).setReg vf (flagByte (drawn s x y n).2)
  | .skp x, s => s.setPc (if s.keys[namedKey s x] = true then s.pc + 4 else s.pc + 2)
  | .sknp x, s => s.setPc (if s.keys[namedKey s x] = true then s.pc + 2 else s.pc + 4)
  | .ldVxDt x, s => s.advance.setReg x s.dt
  | .ldDtVx x, s => s.advance.setDt (s.reg x)
  | .ldStVx x, s => s.advance.setSt (s.reg x)
  | .ldVxK x, s => s.advance.setAwaited (some x)
  | .addI x, s => s.advance.setI (s.i + wide (s.reg x))
  | .ldF x, s => s.advance.setI (wide (s.reg x) * 5)
  | .ldB x, s => s.advance.setMem (s.mem.store config s.i.toNat (bcdDigits (s.reg x)))
  | .dump x, s => (s.advance.setMem (s.mem.store config s.i.toNat (lowRegs s.v x))).setI (pastData s.i (x.val + 1))
  | .load x, s =>
    (s.advance.setRegs (loadLowRegs (fun k => s.byteAt (s.i.toNat + k)) (x.val + 1) s.v)).setI (pastData s.i (x.val + 1))

/-- The state after an instruction, whether it faults or completes. -/
def after (i : Instr) (s : State) : State := (dueTrap i s).elim (completed i s) fun e => s.takeFault e (encode i)

theorem attempt_eq {i : Instr} {s t : State} {d : Option Trap} {f : State → Except Trap State}
    (h : f s.advance = checked d t) : attempt i s f = .next (d.elim t fun e => s.takeFault e (encode i)) := by
  cases d with
  | none => exact attempt_ok h
  | some e => exact attempt_error h

/-- The same for a check followed by an effect that cannot fault. -/
theorem attempt_map_eq {α : Type} {i : Instr} {s t : State} {d : Option Trap} {a : α} {check : State → Except Trap α}
    {g : State → α → State} (h : check s.advance = checked d a) (hg : g s.advance a = t) :
    attempt i s (fun u => (check u).map (g u)) = .next (d.elim t fun e => s.takeFault e (encode i)) :=
  attempt_eq (by rw [h, checked_map, hg])

theorem skipIf_not_advance (c : Bool) (s : State) :
    skipIf (!c) s.advance = { s with pc := if c = true then s.pc + 2 else s.pc + 4 } := by
  cases c <;> exact skipIf_advance _ s

/-- Every instruction in every state: the fault of the table if one is due, else the state it completes in. -/
theorem exec_eq (i : Instr) (s : State) : exec i s = .next (after i s) := by
  cases i with
  | ret => exact attempt_eq (popPc_eq s)
  | call nnn =>
    rw [exec, execCall, execCallWith]
    exact attempt_map_eq (push_eq nnn s) rfl
  | ldB x =>
    rw [exec, execLdB, execLdBWith]
    exact attempt_map_eq (checkData_eq s 3) rfl
  | dump x =>
    rw [exec, execDump, execDumpWith]
    exact attempt_map_eq (checkData_eq s (x.val + 1)) rfl
  | load x =>
    rw [exec, execLoad, execLoadWith]
    exact attempt_map_eq (checkData_eq s (x.val + 1)) rfl
  | drw x y n =>
    rw [exec, execDrw, execDrwWith]
    exact attempt_map_eq (checkData_eq s n.toNat) rfl
  | skp x =>
    rw [exec, execSkp, execSkpWith]
    exact attempt_map_eq (keyIndex_eq s x) (skipIf_advance s.keys[namedKey s x] s)
  | sknp x =>
    rw [exec, execSknp, execSknpWith]
    exact attempt_map_eq (keyIndex_eq s x) (skipIf_not_advance s.keys[namedKey s x] s)
  | seImm x nn => exact congrArg Host.Outcome.next (skipIf_beq_advance (s.reg x) nn s)
  | sneImm x nn => exact congrArg Host.Outcome.next (skipIf_bne_advance (s.reg x) nn s)
  | seReg x y => exact congrArg Host.Outcome.next (skipIf_beq_advance (s.reg x) (s.reg y) s)
  | sneReg x y => exact congrArg Host.Outcome.next (skipIf_bne_advance (s.reg x) (s.reg y) s)
  | _ => rfl

theorem after_of_due {i : Instr} {s : State} {e : Trap} (h : dueTrap i s = some e) :
    after i s = s.takeFault e (encode i) := by
  rw [after, h, Option.elim_some]

theorem after_of_not_due {i : Instr} {s : State} (h : dueTrap i s = none) : after i s = completed i s := by
  rw [after, h, Option.elim_none]

theorem exec_of_due {i : Instr} {s : State} {e : Trap} (h : dueTrap i s = some e) :
    exec i s = .next (s.takeFault e (encode i)) := by
  rw [exec_eq, after_of_due h]

theorem exec_of_not_due {i : Instr} {s : State} (h : dueTrap i s = none) : exec i s = .next (completed i s) := by
  rw [exec_eq, after_of_not_due h]

/-- All an instruction can answer: a fault that is due, or the state it completes in. -/
theorem exec_cases {i : Instr} {s t : State} (h : exec i s = .next t) :
    (∃ e, dueTrap i s = some e ∧ t = s.takeFault e (encode i)) ∨ dueTrap i s = none ∧ t = completed i s := by
  cases hd : dueTrap i s with
  | none => exact .inr ⟨rfl, by cases (exec_of_not_due hd).symm.trans h; rfl⟩
  | some e => exact .inl ⟨e, rfl, by cases (exec_of_due hd).symm.trans h; rfl⟩

/-! ### Faults -/

theorem completed_fault (i : Instr) (s : State) : (completed i s).fault = s.fault := by
  cases i <;> rfl

/-- Settles O11: the two sides of `exec_eq`; no state an instruction completes in touches the record. -/
theorem faultsAreExactAndPrecise : Obligations.FaultsAreExactAndPrecise := by
  intro i s
  cases hd : dueTrap i s with
  | some e => exact ⟨_, exec_of_due hd, rfl⟩
  | none => exact ⟨_, exec_of_not_due hd, completed_fault i s⟩

/-- Settles O46: the three transfers and DRW make the same range test (`dataTrap_eq_some`). -/
theorem transfersBeyondMemoryFault : Obligations.TransfersBeyondMemoryFault := by
  intro i count s hi hpos hout
  have hdue : dueTrap i s = dataTrap s count := by
    obtain ⟨x, rfl, rfl⟩ | ⟨x, rfl | rfl, rfl⟩ | ⟨x, y, n, rfl, rfl⟩ := hi <;> rfl
  exact exec_of_due (hdue.trans (dataTrap_eq_some (by omega)))

/-- Settles O27: the rows of the table for CALL and RET. -/
theorem stackEndsFault : Obligations.StackEndsFault := by
  intro nnn s
  constructor
  · intro hfull
    have hdue : dueTrap (.call nnn) s = some { cause := .stackOverflow, info := 16 } := if_pos hfull
    exact exec_of_due hdue
  · intro hempty
    have hdue : dueTrap .ret s = some { cause := .stackUnderflow, info := 0 } := if_pos hempty
    exact exec_of_due hdue

end Sys2Proof.Machine
end

section
/-! SUPPORT. `Step` by its gates and its fetch (40_step.md R90 to R98), one lemma per way it can go. -/

namespace Sys2Proof.Machine

open Sys2Proof.Safety

variable {s : State}

/-- Behind either gate a step changes nothing (R91, R96). -/
theorem step_of_gate (h : s.fault ≠ none ∨ s.awaited ≠ none) : step s = .next s := by
  obtain ⟨-, hs⟩ | ⟨⟨hf, ha⟩, -⟩ := step_cases s
  · exact hs
  · exact absurd h (by simp [hf, ha])

/-- A fetch with a byte above 4095 takes the fetch fault (R92). -/
theorem step_of_fetch_out (hrun : Running s) (hpc : 4095 ≤ s.pc.toNat) :
    step s = .next (s.takeFault { cause := .fetchOutOfRange, info := max s.pc.toNat 4096 } 0) := by
  obtain ⟨hgate, -⟩ | ⟨-, ⟨-, hs⟩ | ⟨hin, -⟩⟩ := step_cases s
  · exact absurd hrun (not_and_or.mpr hgate)
  · exact hs
  · exact absurd hin (by omega)

/-- A word that decodes runs its instruction (R94). -/
theorem step_of_decoded {i : Instr} (hrun : Running s) (hpc : FetchInRange s) (hi : decode (wordAtPc s) = .ok i) :
    step s = exec i s := by
  obtain ⟨hgate, -⟩ | ⟨-, ⟨hout, -⟩ | ⟨-, ⟨j, hj, hs⟩ | ⟨e, he, -⟩⟩⟩ := step_cases s
  · exact absurd hrun (not_and_or.mpr hgate)
  · exact absurd hpc (Nat.not_le.mpr hout)
  · cases hi.symm.trans hj
    exact hs
  · cases hi.symm.trans he

/-- Settles O5: the dispatch is the only way `Step` can go there (`step_of_decoded`). -/
theorem stepRunsTheDecodedInstruction : Obligations.StepRunsTheDecodedInstruction :=
  fun _ _ => step_of_decoded

/-- Settles O8: the fault gate is closed. -/
theorem faultedMachineDoesNotStep : Obligations.FaultedMachineDoesNotStep :=
  fun _ _ hf => step_of_gate (.inl (by simp [hf]))

/-- Settles O9: the fetch fault (`step_of_fetch_out`), with the larger of pc and 4096 written as a case split. -/
theorem fetchBeyondMemoryFaults : Obligations.FetchBeyondMemoryFaults := by
  intro s hrun hpc
  have hinfo : max s.pc.toNat 4096 = if 4096 ≤ s.pc.toNat then s.pc.toNat else 4096 := Nat.max_comm _ _
  rw [← hinfo]
  exact step_of_fetch_out hrun hpc

/-- Settles O10: of the ways a step can go (`step_cases`) only the dispatch could stop, and no instruction does (`exec_eq`). -/
theorem stepAlwaysAnswersNext : Obligations.StepAlwaysAnswersNext := by
  intro s
  obtain ⟨-, hs⟩ | ⟨-, ⟨-, hs⟩ | ⟨-, ⟨i, -, hs⟩ | ⟨e, -, hs⟩⟩⟩ := step_cases s
  case inr.inr.inl => exact ⟨after i s, hs.trans (exec_eq i s)⟩
  all_goals exact ⟨_, hs⟩

/-- Settles O13: the jump is the instruction that runs, and it writes to pc the address that is there. -/
theorem selfJumpStepsToItself : Obligations.SelfJumpStepsToItself := by
  rintro s ⟨hrun, hpc, nnn, hdec, haddr⟩
  have hself : addressOf nnn = s.pc := BitVec.eq_of_toNat_eq ((addressOf_toNat nnn).trans haddr)
  rw [step_of_decoded hrun hpc hdec, exec_jp, hself]

end Sys2Proof.Machine
end

section
/-! SUPPORT. What an instruction leaves unchanged (10_state.md section 13, 20_memory.md section 1), and that none reads ST
(section 7). Each fact is proved of the state an instruction completes in; a fault taken writes only the record. -/

namespace Sys2Proof.Machine

open Sys2Proof.Safety

variable {i : Instr} {s t : State}

/-! ### Registers -/

theorem completed_reg {r : Reg} (h : mayWriteReg i r = false) : (completed i s).reg r = s.reg r := by
  cases i with
  | ldImm x | addImm x | ldReg x | orReg x | andReg x | xorReg x | rnd x | ldVxDt x =>
    have hx : r ≠ x := by simpa [mayWriteReg, isDestination, setsFlag] using h
    exact State.reg_setReg_of_ne s.advance _ hx
  | addReg x | subReg x | subnReg x | shlReg x | shrReg x =>
    obtain ⟨hx, hvf⟩ : r ≠ x ∧ r ≠ vf := by simpa [mayWriteReg, isDestination, setsFlag] using h
    exact (State.reg_setReg_of_ne _ _ hvf).trans (State.reg_setReg_of_ne s.advance _ hx)
  | drw x y n =>
    have hvf : r ≠ vf := by simpa [mayWriteReg, isDestination, setsFlag] using h
    exact State.reg_setReg_of_ne (s.advance.setFb _) _ hvf
  | load x =>
    have hx : x < r := by simpa [mayWriteReg, isDestination, setsFlag] using h
    exact (loadLowRegs_getElem _ _ _ r.val r.isLt).trans (if_neg (Nat.not_lt.mpr hx))
  | _ => rfl

/-- Settles O17: register by register for the state an instruction completes in (`completed_reg`). -/
theorem onlyDestinationsAndFlagsAreWritten : Obligations.OnlyDestinationsAndFlagsAreWritten := by
  intro i s t r h hr
  obtain ⟨e, -, rfl⟩ | ⟨-, rfl⟩ := exec_cases h
  · rfl
  · exact completed_reg hr

/-! ### Memory -/

theorem completed_byteAt {a : Nat} (h : a < s.i.toNat ∨ s.i.toNat + storedCount i ≤ a) :
    (completed i s).byteAt a = s.byteAt a := by
  cases i with
  | ldB x => exact Memory.read_store_outside s.mem s.i.toNat (bcdDigits (s.reg x)) a h
  | dump x => exact Memory.read_store_outside s.mem s.i.toNat (lowRegs s.v x) a (by rwa [lowRegs_length])
  | _ => rfl

/-- Settles O18: only LD B and the dump store, and each as many bytes as the statement counts (`completed_byteAt`). -/
theorem onlyStoredBytesChange : Obligations.OnlyStoredBytesChange := by
  intro i s t a h ha
  obtain ⟨e, -, rfl⟩ | ⟨-, rfl⟩ := exec_cases h
  · rfl
  · exact completed_byteAt ha

/-! ### The other state, row by row of the table of writers -/

theorem completed_keys (i : Instr) (s : State) : (completed i s).keys = s.keys := by
  cases i <;> rfl

theorem completed_i (h : writesI i = false) : (completed i s).i = s.i := by
  cases i with
  | ldI | addI | ldF | dump | load => cases h
  | _ => rfl

theorem completed_stack (h : writesStack i = false) : (completed i s).stack = s.stack ∧ (completed i s).sp = s.sp := by
  cases i with
  | call | ret => cases h
  | _ => exact ⟨rfl, rfl⟩

theorem completed_mem (h : storedCount i = 0) : (completed i s).mem = s.mem := by
  cases i with
  | ldB | dump => cases h
  | _ => rfl

theorem completed_fb (h : writesFb i = false) : (completed i s).fb = s.fb := by
  cases i with
  | cls | drw => cases h
  | _ => rfl

theorem completed_dt (h : writesDt i = false) : (completed i s).dt = s.dt := by
  cases i with
  | ldDtVx => cases h
  | _ => rfl

theorem completed_st (h : writesSt i = false) : (completed i s).st = s.st := by
  cases i with
  | ldStVx => cases h
  | _ => rfl

theorem completed_draws (h : drawsRandom i = false) : (completed i s).draws = s.draws := by
  cases i with
  | rnd => cases h
  | _ => rfl

/-- Settles O19: one lemma per row of the table of writers (`exec_keeps_awaited` for `awaited`). -/
theorem onlyTheNamedInstructionsWrite : Obligations.OnlyTheNamedInstructionsWrite := by
  intro i s t h
  obtain ⟨e, -, rfl⟩ | ⟨-, rfl⟩ := exec_cases h
  · simp
  · exact ⟨completed_keys i s, completed_i, completed_stack, completed_mem, completed_fb, completed_dt, completed_st,
      fun hw => exec_keeps_awaited hw h, completed_draws⟩

/-! ### The sound timer -/

/-- `t` after `s`, and `u` after `s` with `b` for its ST: they differ at most in ST, where each keeps its own or both hold
the same. -/
def AgreeButSt (s t u : State) (b : Byte) : Prop :=
  u.setSt t.st = t ∧ (t.st = s.st ∧ u.st = b ∨ u.st = t.st)

theorem agreeButSt_of_carried {u : State} {b : Byte} (ht : t.st = s.st) (hu : u = t.setSt b) : AgreeButSt s t u b := by
  subst hu
  exact ⟨rfl, .inl ⟨ht, rfl⟩⟩

/-- LD ST, Vx writes over the value that stood in ST; every other instruction carries it along unread. -/
theorem completed_setSt (i : Instr) (s : State) (b : Byte) :
    AgreeButSt s (completed i s) (completed i (s.setSt b)) b := by
  cases i with
  | ldStVx x => exact ⟨rfl, .inr rfl⟩
  | _ => exact agreeButSt_of_carried rfl rfl

theorem dueTrap_setSt (i : Instr) (s : State) (b : Byte) : dueTrap i (s.setSt b) = dueTrap i s := by
  cases i <;> rfl

theorem after_setSt (i : Instr) (s : State) (b : Byte) : AgreeButSt s (after i s) (after i (s.setSt b)) b := by
  cases hd : dueTrap i s with
  | none =>
    rw [after_of_not_due hd, after_of_not_due ((dueTrap_setSt i s b).trans hd)]
    exact completed_setSt i s b
  | some e =>
    rw [after_of_due hd, after_of_due ((dueTrap_setSt i s b).trans hd)]
    exact agreeButSt_of_carried rfl rfl

/-- Settles O20: neither gate nor the fetch reads ST, so both steps go the same way (`step_cases`), and on the way through an
instruction they agree (`after_setSt`). -/
theorem soundTimerIsNeverRead : Obligations.SoundTimerIsNeverRead := by
  intro s t b h
  suffices hu : ∃ u, step (s.setSt b) = .next u ∧ AgreeButSt s t u b from hu
  obtain ⟨hgate, hs⟩ | ⟨hrun, ⟨hout, hs⟩ | ⟨hin, ⟨i, hi, hs⟩ | ⟨e, he, hs⟩⟩⟩ := step_cases s <;> rw [hs] at h
  · cases h
    exact ⟨_, step_of_gate (s := s.setSt b) hgate, agreeButSt_of_carried rfl rfl⟩
  · cases h
    exact ⟨_, step_of_fetch_out (s := s.setSt b) hrun hout, agreeButSt_of_carried rfl rfl⟩
  · cases (exec_eq i s).symm.trans h
    exact ⟨_, (step_of_decoded (s := s.setSt b) hrun hin hi).trans (exec_eq i _), after_setSt i s b⟩
  · cases h
    have hnone : ∀ i, decode (wordAtPc (s.setSt b)) ≠ .ok i := fun i hi => by cases he.symm.trans hi
    exact ⟨_, step_of_unmatched (s := s.setSt b) hrun hin hnone, agreeButSt_of_carried rfl rfl⟩

end Sys2Proof.Machine
end

section
/-! SUPPORT. The two ways `SetKey` can go (60_exceptions.md R179): the flag alone, or a press delivered to a pending wait. -/

namespace Sys2Proof.Machine

variable {s : State}

/-- Without a wait, or on a release, only the flag is recorded. -/
theorem setKey_of_no_delivery (k : Key) {pressed : Bool} (h : s.awaited = none ∨ pressed = false) :
    setKey k pressed s = s.setKeyFlag k pressed := by
  cases pressed with
  | false => rfl
  | true =>
    have ha : (s.setKeyFlag k true).awaited = none := by simpa using h
    simp only [setKey, deliverKey, ha, if_true]

/-- A press during a wait is also delivered to the awaited register, and the wait ends. -/
theorem setKey_of_delivery (k : Key) {x : Reg} (h : s.awaited = some x) :
    setKey k true s = ((s.setKeyFlag k true).setReg x (BitVec.ofNat 8 k.val)).setAwaited none := by
  have ha : (s.setKeyFlag k true).awaited = some x := h
  simp only [setKey, deliverKey, ha, if_true]

theorem keyByte_toNat (k : Key) : (BitVec.ofNat 8 k.val).toNat = k.val := by
  rw [BitVec.toNat_ofNat, Nat.mod_eq_of_lt (by omega)]

/-- Settles O56: the flag in both cases (`setKey_keys`); the register and the end of the wait on a delivery, nothing else without
one. -/
theorem setKeyRecordsAndDelivers : Obligations.SetKeyRecordsAndDelivers := by
  intro k pressed s
  refine ⟨setKey k pressed s, rfl, fun j => ?flag, fun x hx hp => ?delivery, fun h => ?quiet⟩
  case flag =>
    simp only [setKey_keys, Fin.getElem_fin, Vector.getElem_set, Fin.ext_iff, eq_comm]
  case delivery =>
    subst hp
    rw [setKey_of_delivery k hx]
    refine ⟨rfl, ?value, fun r hr => State.reg_setReg_of_ne (s.setKeyFlag k true) _ hr, rfl⟩
    exact (congrArg BitVec.toNat (State.reg_setReg_self (s.setKeyFlag k true) x _)).trans (keyByte_toNat k)
  case quiet =>
    rw [setKey_of_no_delivery k h]
    rfl

end Sys2Proof.Machine
end

section
/-! SUPPORT. What every step and every operation of the host keeps (10_state.md section 14). -/

namespace Sys2Proof.Machine

open Sys2Proof.Safety

variable {s t : State}

/-- Settles O14: reset lists no memory cell, holds pc 512 and an empty stack, and records no fault. -/
theorem resetMeetsTheInvariant : Obligations.ResetMeetsTheInvariant where
  mem_canonical := State.reset_mem_wf
  pc_bound := by decide
  stack_bound := by decide
  fault_here := nofun

/-! ### The states an instruction completes in -/

theorem dataInRange_of_not_due {n : Nat} (h : dataTrap s n = none) : DataInRange s n := by
  by_contra hout
  cases (dataTrap_eq_some hout).symm.trans h

/-- A transfer that is due no fault stores inside memory, where a store keeps the canonical form. -/
theorem wf_store_of_not_due {ws : List Byte} (hm : s.mem.wf = true) (h : dataTrap s ws.length = none) :
    (s.mem.store config s.i.toNat ws).wf = true := by
  obtain h0 | hin := dataInRange_of_not_due h
  · rw [List.length_eq_zero_iff] at h0
    subst h0
    exact hm
  · exact Memory.wf_store ws hm hin

theorem completed_wf {i : Instr} (hm : s.mem.wf = true) (hd : dueTrap i s = none) : (completed i s).mem.wf = true := by
  cases i with
  | ldB x => exact wf_store_of_not_due (ws := bcdDigits (s.reg x)) hm hd
  | dump x => exact wf_store_of_not_due (ws := lowRegs s.v x) hm (by rwa [lowRegs_length])
  | _ => exact hm

/-- From an address an instruction can be fetched from, pc advances to at most 4098; a jump reaches a 12-bit operand, with
offset a byte more; a return reaches what the stack holds. -/
theorem completed_pc_bound (i : Instr) (hpc : s.pc.toNat ≤ 4094) (hstack : ∀ k : Fin 16, s.stack[k].toNat ≤ 0x1000) :
    (completed i s).pc.toNat ≤ 0x10FE := by
  have hnext : (s.pc + 2).toNat ≤ 0x10FE := by bv_omega
  have hskip : (s.pc + 4).toNat ≤ 0x10FE := by bv_omega
  cases i with
  | ret => exact (hstack (topSlot s)).trans (by decide)
  | jp nnn | call nnn =>
    have hnnn : nnn.toNat < 4096 := nnn.isLt
    exact (addressOf_toNat nnn).trans_le (by omega)
  | jpV0 nnn =>
    have hnnn : nnn.toNat < 4096 := nnn.isLt
    have hv : (s.reg 0).toNat < 256 := (s.reg 0).isLt
    exact (addressOf_add_wide_toNat nnn (s.reg 0)).trans_le (by omega)
  | seImm | sneImm | seReg | sneReg | skp | sknp =>
    simp only [completed, State.setPc_pc]
    split <;> assumption
  | _ => exact hnext

/-- CALL pushes the address after it, at most 4096. -/
theorem completed_stack_bound (i : Instr) (hpc : s.pc.toNat ≤ 4094) (hstack : ∀ k : Fin 16, s.stack[k].toNat ≤ 0x1000)
    (k : Fin 16) : (completed i s).stack[k].toNat ≤ 0x1000 := by
  cases i with
  | call nnn =>
    have hret : (s.pc + 2).toNat ≤ 0x1000 := by bv_omega
    simp only [completed, State.setPc_stack, State.setStack_stack, Fin.getElem_fin, Vector.getElem_set]
    split
    · exact hret
    · exact hstack k
  | _ => exact hstack k

theorem invariant_completed {i : Instr} (hinv : Invariant s) (hf : s.fault = none) (hpc : s.pc.toNat ≤ 4094)
    (hd : dueTrap i s = none) : Invariant (completed i s) where
  mem_canonical := completed_wf hinv.mem_canonical hd
  pc_bound := completed_pc_bound i hpc hinv.stack_bound
  stack_bound := completed_stack_bound i hpc hinv.stack_bound
  fault_here r hr := by
    rw [completed_fault, hf] at hr
    cases hr

/-! ### `Step` -/

/-- A fault is taken where pc is, by a machine that awaits no key. -/
theorem invariant_takeFault (hinv : Invariant s) (ha : s.awaited = none) (e : Trap) (w : Word) :
    Invariant (s.takeFault e w) where
  mem_canonical := hinv.mem_canonical
  pc_bound := hinv.pc_bound
  stack_bound := hinv.stack_bound
  fault_here r hr := by
    cases hr
    exact ⟨rfl, ha⟩

theorem invariant_advance (hinv : Invariant s) (hf : s.fault = none) (hpc : s.pc.toNat ≤ 4094) :
    Invariant s.advance where
  mem_canonical := hinv.mem_canonical
  pc_bound := by
    rw [State.advance_pc]
    bv_omega
  stack_bound := hinv.stack_bound
  fault_here r hr := by cases hf.symm.trans hr

theorem invariant_exec {i : Instr} (hinv : Invariant s) (hrun : Running s) (hpc : s.pc.toNat ≤ 4094)
    (h : exec i s = .next t) : Invariant t := by
  obtain ⟨e, -, rfl⟩ | ⟨hd, rfl⟩ := exec_cases h
  · exact invariant_takeFault hinv hrun.2 e _
  · exact invariant_completed hinv hrun.1 hpc hd

theorem invariant_step (hinv : Invariant s) (h : step s = .next t) : Invariant t := by
  obtain ⟨-, hs⟩ | ⟨hrun, ⟨-, hs⟩ | ⟨hpc, ⟨i, -, hs⟩ | ⟨e, -, hs⟩⟩⟩ := step_cases s <;> rw [hs] at h
  · cases h; exact hinv
  · cases h; exact invariant_takeFault hinv hrun.2 _ _
  · exact invariant_exec hinv hrun hpc h
  · cases h; exact invariant_advance hinv hrun.1 hpc

/-- Settles O15: `invariant_step`. -/
theorem stepKeepsTheInvariant : Obligations.StepKeepsTheInvariant := fun _ _ => invariant_step

/-! ### The operations of the host -/

/-- A change of memory alone keeps the invariant when the new memory is canonical. -/
theorem invariant_setMem {m : Memory} (hinv : Invariant s) (hm : m.wf = true) : Invariant (s.setMem m) where
  mem_canonical := hm
  pc_bound := hinv.pc_bound
  stack_bound := hinv.stack_bound
  fault_here := hinv.fault_here

theorem invariant_tickTimers (hinv : Invariant s) : Invariant (tickTimers s) where
  mem_canonical := hinv.mem_canonical
  pc_bound := hinv.pc_bound
  stack_bound := hinv.stack_bound
  fault_here := hinv.fault_here

/-- A press may end a wait; no key sets one, so a recorded fault still stands beside none. -/
theorem invariant_setKey (hinv : Invariant s) (k : Key) (pressed : Bool) : Invariant (setKey k pressed s) := by
  by_cases hquiet : s.awaited = none ∨ pressed = false
  · rw [setKey_of_no_delivery k hquiet]
    exact ⟨hinv.mem_canonical, hinv.pc_bound, hinv.stack_bound, hinv.fault_here⟩
  · obtain ⟨hawaited, hpressed⟩ := not_or.mp hquiet
    obtain ⟨x, hx⟩ := Option.ne_none_iff_exists'.mp hawaited
    obtain rfl : pressed = true := Bool.eq_true_of_not_eq_false hpressed
    rw [setKey_of_delivery k hx]
    exact ⟨hinv.mem_canonical, hinv.pc_bound, hinv.stack_bound, fun r hr => ⟨(hinv.fault_here r hr).left, rfl⟩⟩

theorem invariant_restart (hinv : Invariant s) : Invariant (restart s) where
  mem_canonical := hinv.mem_canonical
  pc_bound := resetMeetsTheInvariant.pc_bound
  stack_bound := resetMeetsTheInvariant.stack_bound
  fault_here := nofun

theorem invariant_initializeCore (s : State) : Invariant (initializeCore s) where
  mem_canonical := resetMeetsTheInvariant.mem_canonical
  pc_bound := resetMeetsTheInvariant.pc_bound
  stack_bound := resetMeetsTheInvariant.stack_bound
  fault_here := nofun

theorem invariant_clearProgram (hinv : Invariant s) : Invariant (clearProgram s) :=
  invariant_setMem hinv (Memory.wf_clearProgram hinv.mem_canonical)

/-- An image that fits ends where memory does. -/
theorem invariant_loadProgram {bytes : List Byte} (hinv : Invariant s) (h : WellFormedImage bytes = true) :
    Invariant (loadProgram bytes s) := by
  have hlen : bytes.length ≤ 3584 := of_decide_eq_true h
  exact invariant_setMem hinv (Memory.wf_store bytes hinv.mem_canonical (by simp only [progBase, memSize]; omega))

/-- Settles O16: operation by operation. -/
theorem everyOperationKeepsTheInvariant : Obligations.EveryOperationKeepsTheInvariant := by
  intro o s t hinv h
  cases o with
  | step => exact invariant_step hinv h
  | tickTimers => cases h; exact invariant_tickTimers hinv
  | setKey k pressed => cases h; exact invariant_setKey hinv k pressed
  | initializeCore => cases h; exact invariant_initializeCore s
  | restart => cases h; exact invariant_restart hinv
  | clearProgram => cases h; exact invariant_clearProgram hinv
  | fullReset => cases h; exact invariant_clearProgram (invariant_restart hinv)
  | loadProgram bytes =>
    simp only [perform, operate] at h
    split at h
    case isTrue hfits => cases h; exact invariant_loadProgram hinv hfits
    case isFalse => cases h

end Sys2Proof.Machine
end

section
/-! SUPPORT. A canonical memory is determined by what its addresses read as (log 17): its cells are exactly the addresses that read
otherwise than an unlisted one, in rising order. -/

namespace Sys2Proof.Machine

variable {f : Font} {m : Memory} {a : Nat}

theorem Memory.readWith_of_not_listed (h : ∀ c ∈ m, c.1 ≠ a) : Memory.readWith f m a = initialByte f a := by
  induction m with
  | nil => rfl
  | cons c m ih =>
    obtain ⟨hc, hm⟩ := List.forall_mem_cons.mp h
    rw [Memory.readWith, if_neg (Ne.symm hc), ih hm]

/-- In a list of rising addresses no later cell has the address of an earlier one. -/
theorem Memory.readWith_of_mem {w : Byte} (hs : m.Pairwise fun c d => c.1 < d.1) (h : (a, w) ∈ m) :
    Memory.readWith f m a = w := by
  induction m with
  | nil => cases h
  | cons c m ih =>
    obtain ⟨hc, hm⟩ := List.pairwise_cons.mp hs
    obtain rfl | h := List.mem_cons.mp h
    · exact if_pos rfl
    · rw [Memory.readWith, if_neg (hc (a, w) h).ne', ih hm h]

/-- The cells of a canonical memory, from what it reads as. -/
theorem Memory.mem_iff_read (h : m.wfWith f = true) (w : Byte) :
    (a, w) ∈ m ↔ Memory.readWith f m a = w ∧ w ≠ initialByte f a := by
  obtain ⟨hs, hcells⟩ := m.wfWith_iff.mp h
  refine ⟨fun hc => ⟨Memory.readWith_of_mem hs hc, (hcells (a, w) hc).right⟩, fun ⟨hread, hne⟩ => ?_⟩
  by_contra hc
  have hunlisted : ∀ d ∈ m, d.1 ≠ a := by
    rintro ⟨b, u⟩ hd rfl
    rw [Memory.readWith_of_mem hs hd] at hread
    exact hc (hread ▸ hd)
  exact hne (hread.symm.trans (Memory.readWith_of_not_listed hunlisted))

/-- Settles O21: the two lists have the same cells (`Memory.mem_iff_read`), each in strictly rising order. -/
theorem canonicalMemoryIsUnique : Obligations.CanonicalMemoryIsUnique := by
  intro m m' h h' hread
  have hirr : Std.Irrefl fun c d : Host.Cell => c.1 < d.1 := ⟨fun c => Nat.lt_irrefl c.1⟩
  have hanti : Std.Antisymm fun c d : Host.Cell => c.1 < d.1 := ⟨fun _ _ hcd hdc => absurd hcd (Nat.lt_asymm hdc)⟩
  obtain ⟨hs, -⟩ := m.wf_iff.mp h
  obtain ⟨hs', -⟩ := m'.wf_iff.mp h'
  refine hs.eq_of_mem_iff hs' fun ⟨a, w⟩ => ?_
  have ha : Memory.readWith config.font m a = Memory.readWith config.font m' a := hread a
  rw [Memory.mem_iff_read h, Memory.mem_iff_read h', ha]

end Sys2Proof.Machine
end

section
/-! SUPPORT. The operations of the host that reset the machine or write memory (70_reset_and_hazards.md R190 to R196). -/

namespace Sys2Proof.Machine

open Sys2Proof.Safety

/-! ### Reset -/

theorem reset_reg (r : Reg) : State.reset.reg r = 0 := Vector.getElem_replicate r.isLt

theorem reset_stack (k : Fin 16) : State.reset.stack[k] = 0 := Vector.getElem_replicate k.isLt

theorem reset_fb (r : Fin 32) : State.reset.fb[r] = 0 := Vector.getElem_replicate r.isLt

theorem reset_keys (k : Key) : State.reset.keys[k] = false := Vector.getElem_replicate k.isLt

/-- Settles O57: `Initialize` is the state after reset, `Restart` that state with memory and K kept; memory after reset lists
nothing and so reads as FONT and zeros. -/
theorem resetsLeaveTheTabledValues : Obligations.ResetsLeaveTheTabledValues := by
  intro s
  refine ⟨initializeCore s, restart s, rfl, rfl, fun _ => rfl, reset_keys, rfl, rfl, ?_⟩
  rintro w (rfl | rfl) <;> exact ⟨reset_reg, rfl, rfl, reset_stack, rfl, rfl, rfl, reset_fb, rfl, rfl, rfl⟩

/-! ### `ClearProgram` and `FullReset` -/

theorem clearProgram_byteAt (s : State) (a : Nat) : (clearProgram s).byteAt a = if 512 ≤ a then 0 else s.byteAt a :=
  Memory.read_clearProgram s.mem a

/-- The word of zeros is in the first class of R77. -/
theorem decode_zero (i : Instr) : decode (wordOfBytes 0 0) ≠ .ok i := by
  have hzero : decode (wordOfBytes 0 0) = .error (.unmatched 0) := by decide
  rw [hzero]
  exact nofun

/-- Settles O58: the walk over zeroed memory fetches the word of zeros (`clearProgram_byteAt`), which no row matches. -/
theorem clearProgramZeroesTheProgramRegion : Obligations.ClearProgramZeroesTheProgramRegion := by
  intro s
  refine ⟨clearProgram s, rfl, clearProgram_byteAt s, rfl, fun hrun hin hlow => ?_⟩
  have hword : wordAtPc (clearProgram s) = wordOfBytes 0 0 := by
    rw [wordAtPc, clearProgram_byteAt, clearProgram_byteAt, if_pos hlow, if_pos (by omega)]
  exact step_of_unmatched hrun hin (by rw [hword]; exact decode_zero)

/-- Settles O59: the two operations in order, the second of which zeroes memory from 512 up (`clearProgram_byteAt`). -/
theorem fullResetIsRestartThenClear : Obligations.FullResetIsRestartThenClear :=
  fun s => ⟨fullReset s, rfl, rfl, clearProgram_byteAt (restart s), rfl⟩

/-! ### `LoadProgram` and the boot sequence -/

theorem perform_loadProgram {bytes : List Byte} (h : bytes.length ≤ 3584) (s : State) :
    perform (.loadProgram bytes) s = .next (loadProgram bytes s) :=
  if_pos (decide_eq_true h)

theorem perform_loadProgram_refused {bytes : List Byte} (h : 3584 < bytes.length) (s : State) :
    perform (.loadProgram bytes) s = .refused .programTooLong :=
  if_neg fun hfits => Nat.not_le.mpr h (of_decide_eq_true hfits)

theorem loadProgram_byteAt (bytes : List Byte) (s : State) (k : Nat) (h : k < bytes.length) :
    (loadProgram bytes s).byteAt (512 + k) = bytes[k] :=
  Memory.read_store_at s.mem 512 bytes k h

theorem loadProgram_byteAt_outside (bytes : List Byte) (s : State) {a : Nat} (h : a < 512 ∨ 512 + bytes.length ≤ a) :
    (loadProgram bytes s).byteAt a = s.byteAt a :=
  Memory.read_store_outside s.mem 512 bytes a h

theorem boot_eq {bytes : List Byte} (h : bytes.length ≤ 3584) (s : State) :
    boot bytes s = .next (loadProgram bytes (initializeCore s)) := by
  simp only [boot, performAll, inOrder, perform_loadProgram h]
  rfl

/-- Settles O60: after the boot sequence both gates are open, pc is 512 and the first two bytes of the image lie there
(`loadProgram_byteAt`), so the step runs them (`step_of_decoded`). -/
theorem loadedProgramRunsFromItsFirstWord : Obligations.LoadedProgramRunsFromItsFirstWord := by
  intro bytes s
  refine ⟨fun h => ?fits, fun h => perform_loadProgram_refused h s, ?boots⟩
  case fits =>
    exact ⟨loadProgram bytes s, perform_loadProgram h s, loadProgram_byteAt bytes s,
      fun a => loadProgram_byteAt_outside bytes s, rfl⟩
  case boots =>
    rintro hi lo rest i rfl h hdec
    refine ⟨_, boot_eq h s, rfl, step_of_decoded ⟨rfl, rfl⟩ (by decide : 512 ≤ 4094) ?_⟩
    have hhi := loadProgram_byteAt (hi :: lo :: rest) (initializeCore s) 0 (by simp)
    have hlo := loadProgram_byteAt (hi :: lo :: rest) (initializeCore s) 1 (by simp)
    exact (congrArg decode (congrArg₂ wordOfBytes hhi hlo)).trans hdec

end Sys2Proof.Machine
end

section
/-! SUPPORT. CALL and RET on the stack, one after the other and nested (41_control_flow.md R100, R102), the key skips and the wait for
a key (45_timers_keypad.md R163 to R166). -/

namespace Sys2Proof.Machine

open Sys2Proof.Safety

/-! ### One call, one return -/

/-- Settles O25: `exec_call_ok`; a write to one slot keeps the others. -/
theorem callPushesTheReturnAddress : Obligations.CallPushesTheReturnAddress := by
  intro nnn s h
  refine ⟨_, exec_call_ok nnn h, rfl, addressOf_toNat nnn, fun k => ?_, rfl⟩
  simp only [State.setPc_stack, State.setStack_stack, Fin.getElem_fin, Vector.getElem_set, eq_comm]

/-- Settles O26: `exec_ret_ok`. -/
theorem returnPopsTheReturnAddress : Obligations.ReturnPopsTheReturnAddress :=
  fun _ k h => ⟨_, exec_ret_ok k.isLt h, rfl, rfl, rfl⟩

/-! ### Nested calls -/

theorem execAll_cons_of_next {i : Instr} {s t : State} (h : exec i s = .next t) (is : List Instr) :
    execAll (i :: is) s = execAll is t := by
  simp only [execAll, h]

/-- Instructions one after the other, cut in two where the first part completes. -/
theorem execAll_append {is : List Instr} {s t : State} (h : execAll is s = .next t) (js : List Instr) :
    execAll (is ++ js) s = execAll js t := by
  induction is generalizing s with
  | nil => cases h; rfl
  | cons i is ih =>
    have hi := exec_eq i s
    rw [execAll_cons_of_next hi] at h
    rw [List.cons_append, execAll_cons_of_next hi, ih h]

/-- The calls of a list and their returns: the first call and the last return around those of the rest. -/
theorem calls_and_returns_cons (nnn : BitVec 12) (targets : List (BitVec 12)) :
    (nnn :: targets).map Instr.call ++ List.replicate (nnn :: targets).length Instr.ret =
      Instr.call nnn :: (targets.map Instr.call ++ List.replicate targets.length Instr.ret ++ [Instr.ret]) := by
  simp only [List.map_cons, List.length_cons, List.replicate_succ', List.cons_append, List.append_assoc]

/-- Settles O28, by induction on the targets from any state: the calls and returns of the rest run between the first call and
the last return and leave its return address where it was pushed. -/
theorem nestedCallsReturnWhereTheyStarted : Obligations.NestedCallsReturnWhereTheyStarted := by
  intro targets
  induction targets with
  | nil => exact fun s _ => ⟨s, rfl, rfl, fun _ _ => rfl, rfl⟩
  | cons nnn targets ih =>
    intro s hfit
    rw [List.length_cons] at hfit
    have hsp : s.sp.val < 16 := by omega
    obtain ⟨t, hcall, hspT, -, hstackT, hframeT⟩ := callPushesTheReturnAddress nnn s hsp
    obtain ⟨u, hinner, -, hstackU, hframeU⟩ := ih t (by omega)
    have hspU : u.sp = t.sp := by rw [hframeU]
    obtain ⟨w, hret, hspW, hpcW, hframeW⟩ := returnPopsTheReturnAddress u ⟨s.sp.val, hsp⟩ (by rw [hspU, hspT])
    have hstackW : w.stack = u.stack := by rw [hframeW]
    refine ⟨w, ?run, ?pc, fun k hk => ?stack, ?frame⟩
    case run =>
      rw [calls_and_returns_cons, execAll_cons_of_next hcall, execAll_append hinner, execAll_cons_of_next hret, execAll]
    case pc =>
      rw [hpcW, hstackU _ (by rw [hspT]; exact Nat.lt_succ_self _), hstackT, if_pos rfl, if_neg (List.cons_ne_nil _ _)]
    case stack =>
      rw [hstackW, hstackU k (by omega), hstackT, if_neg (Nat.ne_of_lt hk)]
    case frame =>
      have hsp : w.sp = s.sp := Fin.ext hspW
      rw [hframeW, hframeU, hframeT, hsp]

/-! ### Keys -/

theorem exec_ldVxK (x : Reg) (s : State) : exec (.ldVxK x) s = .next (s.advance.setAwaited (some x)) :=
  retire_eq s fun t => t.setAwaited (some x)

/-- Settles O53: the one effect after the advance is the write of `awaited` (`exec_ldVxK`), which closes the gate of `Step`
(`step_of_awaited`). -/
theorem awaitKeyOnlyRecordsTheRegister : Obligations.AwaitKeyOnlyRecordsTheRegister :=
  fun x s => ⟨_, exec_ldVxK x s, rfl, rfl, step_of_awaited rfl⟩

/-- Settles O54: a skip on the flag of the named key, or the key index fault of the table (`keyTrap_eq_some`). -/
theorem keySkipsTestTheNamedKeyOrFault : Obligations.KeySkipsTestTheNamedKeyOrFault := by
  intro x s
  refine ⟨fun k hk => ⟨?skp, ?sknp⟩, fun h i hi => ?fault⟩
  case skp => rw [exec_skp_ok x k hk, skipIf_advance]
  case sknp => rw [exec_sknp_ok x k hk, skipIf_not_advance]
  case fault =>
    have hdue : dueTrap i s = keyTrap s x := by obtain rfl | rfl := hi <;> rfl
    exact exec_of_due (hdue.trans (keyTrap_eq_some h))

end Sys2Proof.Machine
end

section
/-! SUPPORT. The bitwise and the flag-setting instructions and RND (42_alu.md R123 to R131): the arithmetic of each result and
flag, and the frame they share. -/

namespace Sys2Proof.Machine

/-! ### OR, AND, XOR -/

/-- Settles O32: one register is written (`exec_setReg_spec`), with a result that is bitwise by definition. -/
theorem bitwiseOperationsActOnEveryBit : Obligations.BitwiseOperationsActOnEveryBit := by
  intro x y s
  refine ⟨?or, ?and, ?xor⟩
  case or =>
    obtain ⟨t, hexec, hx, hframe⟩ := exec_setReg_spec (exec_of_not_due (i := .orReg x y) (s := s) rfl)
    exact ⟨t, hexec, fun k _ => by rw [hx, BitVec.getLsbD_or], hframe⟩
  case and =>
    obtain ⟨t, hexec, hx, hframe⟩ := exec_setReg_spec (exec_of_not_due (i := .andReg x y) (s := s) rfl)
    exact ⟨t, hexec, fun k _ => by rw [hx, BitVec.getLsbD_and], hframe⟩
  case xor =>
    obtain ⟨t, hexec, hx, hframe⟩ := exec_setReg_spec (exec_of_not_due (i := .xorReg x y) (s := s) rfl)
    exact ⟨t, hexec, fun k _ => by rw [hx, BitVec.getLsbD_xor], hframe⟩

/-! ### A result and its flag -/

/-- An instruction whose effects after the advance are a result in V[x] and then a flag in VF (R133): the flag stands in VF, the
result in V[x] unless that is VF, and all else is kept. -/
theorem exec_result_flag_spec {i : Instr} {x : Reg} {a f : Byte} {s : State}
    (h : exec i s = .next ((s.advance.setReg x a).setReg vf f)) :
    ∃ t, exec i s = .next t ∧ (x ≠ vf → t.reg x = a) ∧ t.reg vf = f ∧ (∀ r, r ≠ x → r ≠ vf → t.reg r = s.reg r) ∧
      t = { s with v := t.v, pc := s.pc + 2 } := by
  refine ⟨_, h, fun hx => ?result, State.reg_setReg_self _ vf f, fun r hx hvf => ?others, rfl⟩
  case result => rw [State.reg_setReg_of_ne _ f hx, State.reg_setReg_self]
  case others => rw [State.reg_setReg_of_ne _ f hvf, State.reg_setReg_of_ne _ a hx, State.reg_advance]

theorem flagByte_decide (p : Prop) [Decidable p] : flagByte (decide p) = if p then 1 else 0 := by
  simp only [flagByte, decide_eq_true_eq]

theorem flagByte_toNat (c : Bool) : (flagByte c).toNat = c.toNat := by
  cases c <;> rfl

theorem byte_sub_toInt (a b : Byte) : ((a - b).toNat : Int) = (a.toNat - b.toNat : Int) % 256 := by
  have ha : a.toNat < 256 := a.isLt
  have hb : b.toNat < 256 := b.isLt
  rw [BitVec.toNat_sub]
  omega

theorem byte_shiftRight_one_toNat (b : Byte) : (b >>> 1).toNat = b.toNat / 2 := by
  rw [BitVec.toNat_ushiftRight, Nat.shiftRight_one]

theorem byte_shiftLeft_one_toNat (b : Byte) : (b <<< 1).toNat = b.toNat * 2 % 256 := by
  rw [BitVec.toNat_shiftLeft, Nat.shiftLeft_eq, Nat.pow_one]

theorem bitZero_toNat (b : Byte) : (bitZero b).toNat = b.toNat % 2 := by
  rw [bitZero, flagByte_toNat, BitVec.getLsbD, Nat.toNat_testBit, Nat.pow_zero, Nat.div_one]

theorem bitSeven_toNat (b : Byte) : (bitSeven b).toNat = b.toNat / 128 := by
  have hb : b.toNat < 256 := b.isLt
  rw [bitSeven, flagByte_toNat, BitVec.getLsbD, Nat.toNat_testBit]
  omega

/-- Settles O33: the 8-bit sum is the sum modulo 256, and the flag is decided on the sum of the numbers. -/
theorem addRegistersSumsAndCarries : Obligations.AddRegistersSumsAndCarries := by
  intro x y s
  obtain ⟨t, hexec, hx, hvf, hframe⟩ := exec_result_flag_spec (exec_of_not_due (i := .addReg x y) (s := s) rfl)
  exact ⟨t, hexec, fun hne => by rw [hx hne, BitVec.toNat_add], hvf.trans (flagByte_decide _), hframe⟩

/-- Settles O34: the 8-bit difference is the difference modulo 256 (`byte_sub_toInt`). -/
theorem subtractSetsNotBorrow : Obligations.SubtractSetsNotBorrow := by
  intro x y s
  obtain ⟨t, hexec, hx, hvf, hframe⟩ := exec_result_flag_spec (exec_of_not_due (i := .subReg x y) (s := s) rfl)
  exact ⟨t, hexec, fun hne => by rw [hx hne, byte_sub_toInt], hvf.trans (flagByte_decide _), hframe⟩

/-- Settles O35: as for SUB, with the operands swapped. -/
theorem subtractReversedSetsNotBorrow : Obligations.SubtractReversedSetsNotBorrow := by
  intro x y s
  obtain ⟨t, hexec, hx, hvf, hframe⟩ := exec_result_flag_spec (exec_of_not_due (i := .subnReg x y) (s := s) rfl)
  exact ⟨t, hexec, fun hne => by rw [hx hne, byte_sub_toInt], hvf.trans (flagByte_decide _), hframe⟩

/-- Settles O36: a right shift by one halves, and the bit it drops is the remainder (`bitZero_toNat`). -/
theorem shiftRightHalvesTheSource : Obligations.ShiftRightHalvesTheSource := by
  intro x y s
  obtain ⟨t, hexec, hx, hvf, hframe⟩ := exec_result_flag_spec (exec_of_not_due (i := .shrReg x y) (s := s) rfl)
  exact ⟨t, hexec, fun hne => by rw [hx hne, byte_shiftRight_one_toNat], by rw [hvf, bitZero_toNat], hframe⟩

/-- Settles O37: a left shift by one doubles modulo 256, and the bit it drops is the quotient by 128 (`bitSeven_toNat`). -/
theorem shiftLeftDoublesTheSource : Obligations.ShiftLeftDoublesTheSource := by
  intro x y s
  obtain ⟨t, hexec, hx, hvf, hframe⟩ := exec_result_flag_spec (exec_of_not_due (i := .shlReg x y) (s := s) rfl)
  exact ⟨t, hexec, fun hne => by rw [hx hne, byte_shiftLeft_one_toNat], by rw [hvf, bitSeven_toNat], hframe⟩

/-! ### RND -/

theorem drawRandom_reg (rand : Byte) (x : Reg) (nn : Byte) (s : State) :
    (drawRandom rand x nn s).reg x = rand &&& nn := State.reg_setReg_self s x (rand &&& nn)

/-- Settles O38: the effect after the advance is `drawRandom` of the next free byte, and a bit outside the mask is off in any
conjunction with it. -/
theorem randomIsTheFreshDrawUnderTheMask : Obligations.RandomIsTheFreshDrawUnderTheMask := by
  intro x nn s
  refine ⟨⟨_, exec_of_not_due rfl, ?draw, rfl, fun r hr => ?others, rfl⟩, fun rand => drawRandom_reg rand x nn s,
    fun rand k hk => ?mask⟩
  case draw => exact drawRandom_reg _ x nn s.advance
  case others => exact State.reg_setReg_of_ne s.advance _ hr
  case mask => rw [drawRandom_reg, BitVec.getLsbD_and, hk, Bool.and_false]

end Sys2Proof.Machine
end

section
/-! SUPPORT. The transfers between registers and memory inside memory (43_memory_transfer.md R143 to R146), and the fetch of bytes a dump
has stored (20_memory.md section 9). -/

namespace Sys2Proof.Machine

open Sys2Proof.Safety

variable {s : State} {x : Reg}

/-! ### BCD -/

theorem bcdDigit_toNat {n : Nat} (h : n < 256) : (BitVec.ofNat 8 n).toNat = n := by
  rw [BitVec.toNat_ofNat, Nat.mod_eq_of_lt h]

/-- Settles O42: three stored bytes (`Memory.read_store_at`), each a digit below 256; nothing is stored beside them. -/
theorem bcdStoresTheThreeDigits : Obligations.BcdStoresTheThreeDigits := by
  intro x s h
  have hb : (s.reg x).toNat < 256 := (s.reg x).isLt
  have hstored := Memory.read_store_at s.mem s.i.toNat (bcdDigits (s.reg x))
  refine ⟨_, exec_ldB_ok x (by omega), ?hundreds, ?tens, ?ones, fun a ha => ?others, rfl⟩
  case hundreds => exact (congrArg BitVec.toNat (hstored 0 (by simp [bcdDigits]))).trans (bcdDigit_toNat (by omega))
  case tens => exact (congrArg BitVec.toNat (hstored 1 (by simp [bcdDigits]))).trans (bcdDigit_toNat (by omega))
  case ones => exact (congrArg BitVec.toNat (hstored 2 (by simp [bcdDigits]))).trans (bcdDigit_toNat (by omega))
  case others => exact Memory.read_store_outside s.mem s.i.toNat (bcdDigits (s.reg x)) a ha

/-! ### The dump and the load -/

/-- Register k lies k bytes into the dump (R144). -/
theorem read_store_lowRegs (m : Memory) (s : State) (a : Nat) {k : Reg} (hk : k ≤ x) :
    (m.store config a (lowRegs s.v x)).read (a + k.val) = s.reg k := by
  have hlen : k.val < (lowRegs s.v x).length := (lowRegs_length s.v x).symm ▸ Nat.lt_succ_of_le hk
  rw [Memory.read_store_at m a (lowRegs s.v x) k.val hlen, lowRegs_getElem s.v x k.val hlen k.isLt]
  rfl

/-- A register of the load's range holds its byte, one above it is kept (R145). -/
theorem reg_setRegs_loadLowRegs (s : State) (bytes : Nat → Byte) (v : Vector Byte 16) (n : Nat) (r : Reg) :
    (s.setRegs (loadLowRegs bytes n v)).reg r = if r.val < n then bytes r.val else v[r] :=
  loadLowRegs_getElem bytes n v r.val r.isLt

theorem reg_load_of_le (s : State) (bytes : Nat → Byte) (v : Vector Byte 16) {k : Reg} (hk : k ≤ x) :
    (s.setRegs (loadLowRegs bytes (x.val + 1) v)).reg k = bytes k.val := by
  rw [reg_setRegs_loadLowRegs, if_pos (Nat.lt_succ_of_le hk)]

theorem reg_load_of_lt (s : State) (bytes : Nat → Byte) (v : Vector Byte 16) {k : Reg} (hk : x < k) :
    (s.setRegs (loadLowRegs bytes (x.val + 1) v)).reg k = v[k] := by
  rw [reg_setRegs_loadLowRegs, if_neg (Nat.not_lt.mpr hk)]

/-- Settles O43: the stored bytes are the registers in order (`read_store_lowRegs`), nothing is stored beside them, and I does
not wrap. -/
theorem registerDumpStoresTheRange : Obligations.RegisterDumpStoresTheRange := by
  intro x s h
  refine ⟨_, exec_dump_ok x (by omega), fun k hk => ?bytes, fun a ha => ?others, ?address, rfl⟩
  case bytes => exact read_store_lowRegs s.mem s s.i.toNat hk
  case others =>
    exact Memory.read_store_outside s.mem s.i.toNat (lowRegs s.v x) a (by rwa [lowRegs_length])
  case address => exact pastData_toNat (by omega)

/-- Settles O44: the registers of the range are the bytes in order, those above are kept, and I does not wrap. -/
theorem registerLoadReadsTheRange : Obligations.RegisterLoadReadsTheRange := by
  intro x s h
  refine ⟨_, exec_load_ok x (by omega), fun k hk => ?loaded, fun r hr => ?kept, ?address, rfl⟩
  case loaded => exact reg_load_of_le s.advance _ s.v hk
  case kept => exact reg_load_of_lt s.advance _ s.v hr
  case address => exact pastData_toNat (by omega)

/-- Settles O45: the load reads register k where the dump has stored it. -/
theorem dumpThenLoadRestoresRegisters : Obligations.DumpThenLoadRestoresRegisters := by
  intro x s h
  obtain ⟨t, hdump, hbytes, -, hti, -⟩ := registerDumpStoresTheRange x s h
  obtain ⟨u, hload, hregs, hhigh, hui, -⟩ :=
    registerLoadReadsTheRange x { t with i := s.i, v := Vector.replicate 16 0 } h
  have hpast : (pastData s.i (x.val + 1)).toNat = s.i.toNat + x.val + 1 := pastData_toNat (by omega)
  have hi : t.i = s.i + BitVec.ofNat 16 (x.val + 1) := BitVec.eq_of_toNat_eq (hti.trans hpast.symm)
  exact ⟨t, u, hdump, hload, fun k hk => (hregs k hk).trans (hbytes k hk),
    fun k hk => (hhigh k hk).trans (Vector.getElem_replicate k.isLt), hi, BitVec.eq_of_toNat_eq (hui.trans hti.symm)⟩

/-- Settles O47: the dump leaves both gates open and pc inside memory, at the two bytes it has stored. -/
theorem storedWordIsTheNextInstruction : Obligations.StoredWordIsTheNextInstruction := by
  intro x k l s j hrun h hkl hl hpc hdec
  obtain ⟨t, hdump, hbytes, -, -, hframe⟩ := registerDumpStoresTheRange x s h
  have hlx : l.val ≤ x.val := hl
  have hkx : k ≤ x := Fin.le_def.mpr (by omega)
  have htpc : t.pc = s.pc + 2 := by rw [hframe]
  have htin : FetchInRange t := by
    rw [FetchInRange, htpc, hpc]
    omega
  have hword : wordAtPc t = wordOfBytes (s.reg k) (s.reg l) := by
    rw [wordAtPc, htpc, hpc, hbytes k hkx, Nat.add_assoc, ← hkl, hbytes l hl]
  have htrun : Running t := by
    rw [hframe]
    exact hrun
  exact ⟨t, hdump, step_of_decoded htrun htin (hword ▸ hdec)⟩

end Sys2Proof.Machine
end

section
/-! SUPPORT. DRW pixel by pixel (44_graphics.md R151 to R153): the framebuffer and the collision flag of `drawn` in terms of the
pixels the sprite lights. -/

namespace Sys2Proof.Machine

open Sys2Proof.Safety

variable {s : State} {x y : Reg} {n : BitVec 4}

/-! ### The row mask -/

/-- A byte in the top eight bits of a row loses none, so the mask is one division. -/
theorem rowMask_toNat (b : Byte) (column : Nat) : (rowMask b column).toNat = b.toNat * 2 ^ 56 / 2 ^ column := by
  have hb : b.toNat < 256 := b.isLt
  have htop : b.toNat * 2 ^ 56 % 2 ^ 64 = b.toNat * 2 ^ 56 := Nat.mod_eq_of_lt (by omega)
  rw [rowMask, BitVec.toNat_ushiftRight, BitVec.toNat_shiftLeft, BitVec.toNat_setWidth_of_le (by decide),
    Nat.shiftLeft_eq, htop, Nat.shiftRight_eq_div_pow]

/-- Settles O50: the numeric form holds for every origin (`rowMask_toNat`), and from 64 on the divisor exceeds the dividend. -/
theorem rowMaskIsTheShiftedByte : Obligations.RowMaskIsTheShiftedByte := by
  refine fun b x => ⟨fun _ => rowMask_toNat b x.toNat, fun h => BitVec.eq_of_toNat_eq ?_⟩
  have hb : b.toNat < 256 := b.isLt
  have hpow : 2 ^ 64 ≤ 2 ^ x.toNat := Nat.pow_le_pow_right (by decide) h
  exact (rowMask_toNat b x.toNat).trans (Nat.div_eq_of_lt (by omega))

/-! ### Rows and framebuffers as pixels -/

theorem pixel_eq (fb : Vector Row 32) (r : Fin 32) (c : Fin 64) : pixel fb r c = fb[r].getLsbD (63 - c.val) := rfl

/-- Two rows with the same pixel in every column are equal. -/
theorem row_ext {v w : Row} (h : ∀ c : Fin 64, v.getLsbD (63 - c.val) = w.getLsbD (63 - c.val)) : v = w := by
  refine BitVec.eq_of_getLsbD_eq fun k hk => ?_
  have hcol := h ⟨63 - k, by omega⟩
  rwa [show 63 - (63 - k) = k by omega] at hcol

theorem fb_ext {fb fb' : Vector Row 32} (h : ∀ r c, pixel fb r c = pixel fb' r c) : fb = fb' :=
  Vector.ext fun r hr => row_ext (h ⟨r, hr⟩)

/-- Two rows meet exactly where a column is lit in both. -/
theorem row_and_ne_zero_iff (v w : Row) :
    v &&& w ≠ 0 ↔ ∃ c : Fin 64, v.getLsbD (63 - c.val) = true ∧ w.getLsbD (63 - c.val) = true := by
  constructor
  · contrapose!
    intro h
    refine row_ext fun c => ?_
    rw [BitVec.getLsbD_and, BitVec.ofNat_eq_ofNat, BitVec.getLsbD_zero, Bool.and_eq_false_imp]
    exact fun hv => Bool.eq_false_iff.mpr (h c hv)
  · rintro ⟨c, hv, hw⟩ h0
    have hbit := congrArg (fun u : Row => u.getLsbD (63 - c.val)) h0
    simp [hv, hw] at hbit

/-! ### The pixels of the sprite -/

/-- The sprite lights a pixel when one of its rows falls there and the mask of that row has the bit (`rowMask_getLsbD`). -/
theorem spritePixel_iff (r : Fin 32) (c : Fin 64) :
    spritePixel s x y n r c = true ↔ ∃ k < n.toNat, targetRow (s.reg y) k = r ∧
      (rowMask (s.byteAt (s.i.toNat + k)) (s.reg x).toNat).getLsbD (63 - c.val) = true := by
  simp only [spritePixel, rowMask_getLsbD, targetRow, Fin.ext_iff, List.any_eq_true, List.mem_range, Bool.and_eq_true,
    beq_iff_eq, and_assoc]

/-- A sprite has fewer rows than the display, so only one of them falls on a display row. -/
theorem spritePixel_of_targetRow {k : Nat} {r : Fin 32} (hk : k < n.toNat) (hr : targetRow (s.reg y) k = r) (c : Fin 64) :
    spritePixel s x y n r c = (rowMask (s.byteAt (s.i.toNat + k)) (s.reg x).toNat).getLsbD (63 - c.val) := by
  have hn : n.toNat < 16 := n.isLt
  rw [Bool.eq_iff_iff, spritePixel_iff]
  constructor
  · rintro ⟨j, hj, hjr, hbit⟩
    rwa [targetRow_injective (by omega) (by omega) (hjr.trans hr.symm)] at hbit
  · exact fun hbit => ⟨k, hk, hr, hbit⟩

theorem spritePixel_of_no_targetRow {r : Fin 32} (h : ∀ k < n.toNat, targetRow (s.reg y) k ≠ r) (c : Fin 64) :
    spritePixel s x y n r c = false := by
  rw [Bool.eq_false_iff, ne_eq, spritePixel_iff]
  exact fun ⟨k, hk, hr, _⟩ => h k hk hr

/-- The sprite's pixels depend on the two origins, on I and on memory alone. -/
theorem spritePixel_congr {t : State} (hx : t.reg x = s.reg x) (hy : t.reg y = s.reg y) (hi : t.i = s.i)
    (hm : t.mem = s.mem) : spritePixel t x y n = spritePixel s x y n := by
  funext r c
  simp only [spritePixel, State.byteAt, hx, hy, hi, hm]

/-! ### The drawn framebuffer and the collision -/

theorem pixel_drawn (r : Fin 32) (c : Fin 64) :
    pixel (drawn s x y n).1 r c = (pixel s.fb r c ^^ spritePixel s x y n r c) := by
  obtain ⟨hmiss, hhit⟩ := drawRows_fb (fun k => s.byteAt (s.i.toNat + k)) (s.reg x).toNat (s.reg y) n.toNat
    (by have := n.isLt; omega) s.fb r
  by_cases h : ∃ k < n.toNat, targetRow (s.reg y) k = r
  · obtain ⟨k, hk, hr⟩ := h
    rw [pixel_eq, drawn, hhit k hk hr, BitVec.getLsbD_xor, spritePixel_of_targetRow hk hr, pixel_eq]
  · have hno : ∀ k < n.toNat, targetRow (s.reg y) k ≠ r := fun k hk hr => h ⟨k, hk, hr⟩
    rw [pixel_eq, drawn, hmiss hno, spritePixel_of_no_targetRow hno, Bool.xor_false, pixel_eq]

theorem drawn_collision_iff :
    (drawn s x y n).2 = true ↔ ∃ r c, pixel s.fb r c = true ∧ spritePixel s x y n r c = true := by
  rw [drawn, drawRows_collision _ _ _ _ (by have := n.isLt; omega)]
  simp only [row_and_ne_zero_iff, spritePixel_iff, pixel_eq]
  constructor
  · rintro ⟨k, hk, c, hfb, hbit⟩
    exact ⟨_, c, hfb, k, hk, rfl, hbit⟩
  · rintro ⟨r, c, hfb, k, hk, rfl, hbit⟩
    exact ⟨k, hk, c, hfb, hbit⟩

theorem flagByte_eq_one_iff (c : Bool) : flagByte c = 1 ↔ c = true := by
  cases c <;> decide

/-- Settles O49: the pixels are those of `pixel_drawn`, and VF is the flag of `drawn_collision_iff`. -/
theorem drawTogglesTheSpritePixels : Obligations.DrawTogglesTheSpritePixels := by
  intro x y n s h
  have hvf := State.reg_setReg_self (s.advance.setFb (drawn s x y n).1) vf (flagByte (drawn s x y n).2)
  refine ⟨_, exec_drw_ok x y n h, pixel_drawn, ?bit, ?collision, fun r hr => ?others, rfl⟩
  case bit =>
    rw [hvf]
    cases (drawn s x y n).2
    · exact .inl rfl
    · exact .inr rfl
  case collision => rw [hvf, flagByte_eq_one_iff, drawn_collision_iff]
  case others => exact State.reg_setReg_of_ne (s.advance.setFb _) _ hr

/-- Settles O51: the second draw toggles the same pixels as the first (`spritePixel_congr`), and meets a lit one exactly where the
first has turned one on. -/
theorem drawingTwiceRestoresTheDisplay : Obligations.DrawingTwiceRestoresTheDisplay := by
  intro x y n s t h hexec hx hy
  obtain ⟨t', hexec', hpix, -, -, -, hframe⟩ := drawTogglesTheSpritePixels x y n s h
  cases hexec'.symm.trans hexec
  have hi : t.i = s.i := by rw [hframe]
  have hm : t.mem = s.mem := by rw [hframe]
  have hsame : spritePixel t x y n = spritePixel s x y n := spritePixel_congr hx hy hi hm
  obtain ⟨u, hexecU, hpixU, -, hvfU, -, -⟩ := drawTogglesTheSpritePixels x y n t (by rwa [DataInRange, hi])
  refine ⟨u, hexecU, fb_ext fun r c => ?restored, hvfU.trans ?flag⟩
  case restored => rw [hpixU, hpix, hsame, Bool.xor_assoc, Bool.xor_self, Bool.xor_false]
  case flag =>
    simp only [hsame, hpix]
    refine exists_congr fun r => exists_congr fun c => and_congr_left fun hlit => ?_
    rw [hlit, Bool.xor_true, Bool.not_eq_true']

end Sys2Proof.Machine
end
